-- ==== Sys2Proof/Word.lean ====
section
/-! DEFINITION. The widths the spec fixes (spec/10_state.md R14, spec/30_encoding.md R55). -/

namespace Sys2Proof

/-- A byte of the stream or of FBUF (spec/20_memory.md R34). -/
abbrev Byte := BitVec 8

/-- A 32-bit word: a header word, PROBE, SKIP, STATUS, `cmd_arg`, `rsp_data`. -/
abbrev Word := BitVec 32

/-- A byte address of FBUF and the width of BUF_LEN: `P_BUF_AW` = 12 bits (spec/00_scope.md R6). -/
abbrev BufAddr := BitVec 12

/-- A command word `{cmd_op[7:0], cmd_arg[31:0]}` (spec/30_encoding.md R55). -/
abbrev CmdWord := BitVec 40

/-- A one-bit field as a number: 1 for true. -/
def bit (b : Bool) : Nat := if b then 1 else 0

@[simp] theorem bit_true : bit true = 1 := rfl
@[simp] theorem bit_false : bit false = 0 := rfl

end Sys2Proof
end

