-- ==== Sys2Proof/Config.lean ====
section
/-! DEFINITION. The implementation parameters of spec/00_scope.md R6 and the sentinel of spec/40_header_fields.md R68. -/

namespace Sys2Proof.Config

/-- `P_BUF`: the frame buffer's capacity in bytes (spec/00_scope.md R6). -/
def pBuf : Nat := 4096

/-- The largest frame size of any legal header, and the bound on BUF_LEN
(spec/10_state.md R17, spec/41_frame_length.md R101). -/
def maxFrame : Nat := 2881

/-- The value at which SKIP saturates, `2^P_SKIP_BITS - 1` (spec/10_state.md R19). -/
def skipMax : Nat := 0xFFFFFFFF

/-- `INVALID` = 0xFFFFFFFF (spec/40_header_fields.md R68). -/
def invalid : Word := 0xFFFFFFFF#32

/-- `T_CMD`, cycles per command: OPEN, and no rule depends on it (spec/00_scope.md R7; log entry 12). -/
opaque tCmd : Nat

/-- `T_STEP`, cycles per engine step: OPEN (spec/00_scope.md R7; log entry 12). -/
opaque tStep : Nat

/-- `CMD_PORT_BASE`, where the command port lies in a system: OPEN (spec/20_memory.md R41; log entry 12). -/
opaque cmdPortBase : Nat

end Sys2Proof.Config
end

