-- ==== Sys2Proof/Machine/Rom.lean ====
section
/-! DEFINITION. The four lookup ROMs (spec/10_state.md R24 to R29), constants that nothing writes. The values are the
spec's, which marks them as general knowledge (log entry 6). -/

namespace Sys2Proof.Machine

/-- Version code 3, MPEG1 (spec/30_encoding.md R52). -/
def mpeg1 : BitVec 2 := 3#2
/-- Version code 2, MPEG2 (spec/30_encoding.md R52). -/
def mpeg2 : BitVec 2 := 2#2
/-- Version code 1, Reserved (spec/30_encoding.md R52). -/
def reservedVersion : BitVec 2 := 1#2
/-- Version code 0, MPEG2.5 (spec/30_encoding.md R52). -/
def mpeg25 : BitVec 2 := 0#2
/-- Layer code 3, Layer I (spec/30_encoding.md R52). -/
def layerI : BitVec 2 := 3#2
/-- Layer code 2, Layer II (spec/30_encoding.md R52). -/
def layerII : BitVec 2 := 2#2
/-- Layer code 1, Layer III (spec/30_encoding.md R52). -/
def layerIII : BitVec 2 := 1#2
/-- Layer code 0, Reserved (spec/30_encoding.md R52). -/
def reservedLayer : BitVec 2 := 0#2
/-- Channel mode code 3, SingleChannel (spec/30_encoding.md R52). -/
def singleChannel : BitVec 2 := 3#2
/-- Emphasis code 2, Reserved (spec/30_encoding.md R52). -/
def reservedEmphasis : BitVec 2 := 2#2

/-- The MPEG2 bitrate rows, which MPEG2.5 copies (spec/10_state.md R25, R26), by layer code, in kbit/s. -/
def romBrRowMpeg2 (l : BitVec 2) : List Nat :=
  if l = layerI then [0, 32, 48, 56, 64, 80, 96, 112, 128, 144, 160, 176, 192, 224, 256]
  else if l = layerII then [0, 8, 16, 24, 32, 40, 48, 56, 64, 80, 96, 112, 128, 144, 160]
  else if l = layerIII then [0, 8, 16, 24, 32, 40, 48, 56, 64, 80, 96, 112, 128, 144, 160]
  else []

/-- The MPEG1 bitrate rows (spec/10_state.md R26), by layer code, in kbit/s. -/
def romBrRowMpeg1 (l : BitVec 2) : List Nat :=
  if l = layerI then [0, 32, 64, 96, 128, 160, 192, 224, 256, 288, 320, 352, 384, 416, 448]
  else if l = layerII then [0, 32, 48, 56, 64, 80, 96, 112, 128, 160, 192, 224, 256, 320, 384]
  else if l = layerIII then [0, 32, 40, 48, 56, 64, 80, 96, 112, 128, 160, 192, 224, 256, 320]
  else []

/-- The 15 written entries of a row of ROM_BR; the rows of the reserved version and layer are all 0. -/
def romBrRow (v l : BitVec 2) : List Nat :=
  if v = mpeg1 then romBrRowMpeg1 l
  else if v = mpeg2 then romBrRowMpeg2 l
  else if v = mpeg25 then romBrRowMpeg2 l
  else []

/-- ROM_BR[v][l][i], 9 bits, in kbit/s; every entry not written above is 0 (spec/10_state.md R26). -/
def romBr (v l : BitVec 2) (i : BitVec 4) : BitVec 9 := BitVec.ofNat 9 ((romBrRow v l).getD i.toNat 0)

/-- The row of ROM_SR for a version (spec/10_state.md R27), in Hz. -/
def romSrRow (v : BitVec 2) : List Nat :=
  if v = mpeg1 then [44100, 48000, 32000, 0]
  else if v = mpeg2 then [22050, 24000, 16000, 0]
  else if v = mpeg25 then [11025, 12000, 8000, 0]
  else [0, 0, 0, 0]

/-- ROM_SR[v][i], 16 bits (spec/10_state.md R27). -/
def romSr (v i : BitVec 2) : BitVec 16 := BitVec.ofNat 16 ((romSrRow v).getD i.toNat 0)

/-- The row of ROM_SPF for a version, by layer code 0 to 3 (spec/10_state.md R28). -/
def romSpfRow (v : BitVec 2) : List Nat :=
  if v = mpeg1 then [0, 1152, 1152, 384]
  else if v = mpeg2 then [0, 576, 1152, 384]
  else if v = mpeg25 then [0, 576, 1152, 384]
  else [0, 0, 0, 0]

/-- ROM_SPF[v][l], 11 bits (spec/10_state.md R28). -/
def romSpf (v l : BitVec 2) : BitVec 11 := BitVec.ofNat 11 ((romSpfRow v).getD l.toNat 0)

/-- ROM_SLOT[l], 3 bits: 4 for Layer I, 1 otherwise (spec/10_state.md R29). -/
def romSlot (l : BitVec 2) : BitVec 3 := if l = layerI then 4#3 else 1#3

end Sys2Proof.Machine
end

