-- ==== Sys2Proof/Machine/Header.lean ====
section
/-! DEFINITION. The header field decoder and the frame-length and duration calculator: functions of a header word
`H = {byte0, byte1, byte2, byte3}` and the ROMs (spec/40_header_fields.md section 1, spec/41_frame_length.md sections
1 to 3). -/

namespace Sys2Proof.Machine

/-- The header word of four stream bytes, the first the most significant (spec/20_memory.md R35). -/
def headerWord (b0 b1 b2 b3 : Byte) : Word := (b0 ++ b1 ++ b2 ++ b3).cast rfl

/-- `sync_ok(H)`: `H[31:24] = 0xFF` and `H[23:21] = 0b111` (spec/40_header_fields.md R63). -/
def syncOk (h : Word) : Bool := h.extractLsb' 24 8 == 0xFF#8 && h.extractLsb' 21 3 == 0b111#3

/-- `version(H) = H[20:19]` (spec/40_header_fields.md R64). -/
def version (h : Word) : BitVec 2 := h.extractLsb' 19 2

/-- `layer(H) = H[18:17]` (spec/40_header_fields.md R65). -/
def layer (h : Word) : BitVec 2 := h.extractLsb' 17 2

/-- `protection(H) = H[16]`: 1 means no CRC (spec/40_header_fields.md R66, spec/90_conflicts.md C5). -/
def protection (h : Word) : Bool := h.getLsbD 16

/-- `crc_present(H)`: `H[16] = 0` (spec/40_header_fields.md R66). -/
def crcPresent (h : Word) : Bool := !protection h

/-- `br_index(H) = H[15:12]` (spec/40_header_fields.md R67). -/
def brIndex (h : Word) : BitVec 4 := h.extractLsb' 12 4

/-- `sr_index(H) = H[11:10]` (spec/40_header_fields.md R67). -/
def srIndex (h : Word) : BitVec 2 := h.extractLsb' 10 2

/-- `pad(H) = H[9]` (spec/40_header_fields.md R71). -/
def pad (h : Word) : Bool := h.getLsbD 9

/-- `private(H) = H[8]` (spec/40_header_fields.md R72). -/
def privateBit (h : Word) : Bool := h.getLsbD 8

/-- `chmode(H) = H[7:6]` (spec/40_header_fields.md R73). -/
def chmode (h : Word) : BitVec 2 := h.extractLsb' 6 2

/-- `copyright(H) = H[3]` (spec/40_header_fields.md R74). -/
def copyright (h : Word) : Bool := h.getLsbD 3

/-- `original(H) = H[2]` (spec/40_header_fields.md R75). -/
def original (h : Word) : Bool := h.getLsbD 2

/-- `emphasis(H) = H[1:0]` (spec/40_header_fields.md R76). -/
def emphasis (h : Word) : BitVec 2 := h.extractLsb' 0 2

/-- The bitrate in bit/s of a version, layer and bitrate index, or INVALID (spec/40_header_fields.md R69). -/
def bitrateOf (v l : BitVec 2) (i : BitVec 4) : Word :=
  if i = 15#4 then Config.invalid
  else if romBr v l i = 0#9 then Config.invalid
  else (romBr v l i).setWidth 32 * 1000#32

/-- `bitrate(H)` (spec/40_header_fields.md R69). -/
def bitrate (h : Word) : Word := bitrateOf (version h) (layer h) (brIndex h)

/-- The sample rate in Hz of a version and sample-rate index, or INVALID (spec/40_header_fields.md R70). -/
def samplerateOf (v i : BitVec 2) : Word :=
  if i = 3#2 then Config.invalid else (romSr v i).setWidth 32

/-- `samplerate(H)` (spec/40_header_fields.md R70). -/
def samplerate (h : Word) : Word := samplerateOf (version h) (srIndex h)

/-- `legal(H)`, all six conditions (spec/40_header_fields.md R77). -/
def legal (h : Word) : Bool :=
  syncOk h && emphasis h != reservedEmphasis && layer h != reservedLayer && version h != reservedVersion
    && samplerate h != Config.invalid && bitrate h != Config.invalid

/-- `crc_len(H)` (spec/41_frame_length.md R93). -/
def crcLen (h : Word) : Nat := if crcPresent h then 2 else 0

/-- `side_len(H)`; `none` is ERR_VERSION (spec/41_frame_length.md R94, spec/90_conflicts.md C2). -/
def sideLen (h : Word) : Option Nat :=
  if version h = mpeg1 then some (if chmode h = singleChannel then 17 else 32)
  else if version h = mpeg2 then some (if chmode h = singleChannel then 9 else 17)
  else if version h = mpeg25 then some (if chmode h = singleChannel then 9 else 17)
  else none

/-- `samples(H)` (spec/41_frame_length.md R95). -/
def samples (h : Word) : Nat := (romSpf (version h) (layer h)).toNat

/-- `slot(H)` (spec/41_frame_length.md R96). -/
def slot (h : Word) : Nat := (romSlot (layer h)).toNat

/-- The bytes that a set pad bit adds (spec/41_frame_length.md R98). -/
def padBytes (h : Word) : Nat := if pad h then slot h else 0

/-- `size(H)`, exact integer arithmetic; the spec defines it for a legal header only, and every use checks that
(spec/41_frame_length.md R98). -/
def frameSize (h : Word) : Nat := samples h * (bitrate h).toNat / (8 * (samplerate h).toNat) + padBytes h

/-- `duration(H)` in whole milliseconds, for a legal header (spec/41_frame_length.md R104). -/
def duration (h : Word) : Nat := samples h * 1000 / (samplerate h).toNat

end Sys2Proof.Machine
end

