-- ==== Sys2Proof/Syntax.lean ====
section
/-! DEFINITION. The 27 commands, one constructor per row of spec/opcode_table.json (spec/30_encoding.md R60). -/

namespace Sys2Proof

/-- The header source of format H (spec/30_encoding.md R57): `S = 0` is `f`, the frame in FBUF; `S = 1` is `p`, PROBE. -/
inductive HdrSrc where
  | frame
  | probe
deriving DecidableEq, Repr

/-- A command. Formats N and H carry no argument: `cmd_arg` is ignored there (spec/30_encoding.md R59; log entry 7).
Format W carries the header word, format I the unsigned byte index. -/
inductive Instr where
  /-- `NOP` (spec/42_synchronizer.md R125). -/
  | nop
  /-- `DECODE` (spec/42_synchronizer.md R126). -/
  | decode
  /-- `LDPROBE imm` (spec/42_synchronizer.md R127). -/
  | ldprobe (word : Word)
  /-- `RDSTAT` (spec/42_synchronizer.md R128). -/
  | rdstat
  /-- `RDSKIP` (spec/42_synchronizer.md R129). -/
  | rdskip
  /-- `HF.RAW src` (spec/40_header_fields.md R80). -/
  | hfRaw (src : HdrSrc)
  /-- `HF.VERSION src` (spec/40_header_fields.md R81). -/
  | hfVersion (src : HdrSrc)
  /-- `HF.LAYER src` (spec/40_header_fields.md R82). -/
  | hfLayer (src : HdrSrc)
  /-- `HF.PROTECTION src` (spec/40_header_fields.md R83). -/
  | hfProtection (src : HdrSrc)
  /-- `HF.BITRATE src` (spec/40_header_fields.md R84). -/
  | hfBitrate (src : HdrSrc)
  /-- `HF.SAMPLERATE src` (spec/40_header_fields.md R85). -/
  | hfSamplerate (src : HdrSrc)
  /-- `HF.PAD src` (spec/40_header_fields.md R86). -/
  | hfPad (src : HdrSrc)
  /-- `HF.PRIVATE src` (spec/40_header_fields.md R87). -/
  | hfPrivate (src : HdrSrc)
  /-- `HF.CHMODE src` (spec/40_header_fields.md R88). -/
  | hfChmode (src : HdrSrc)
  /-- `HF.COPYRIGHT src` (spec/40_header_fields.md R89). -/
  | hfCopyright (src : HdrSrc)
  /-- `HF.ORIGINAL src` (spec/40_header_fields.md R90). -/
  | hfOriginal (src : HdrSrc)
  /-- `HF.EMPHASIS src` (spec/40_header_fields.md R91). -/
  | hfEmphasis (src : HdrSrc)
  /-- `HF.LEGAL src` (spec/40_header_fields.md R92). -/
  | hfLegal (src : HdrSrc)
  /-- `FL.SAMPLES src` (spec/41_frame_length.md R107). -/
  | flSamples (src : HdrSrc)
  /-- `FL.SIZE src` (spec/41_frame_length.md R108). -/
  | flSize (src : HdrSrc)
  /-- `FL.DURATION src` (spec/41_frame_length.md R109). -/
  | flDuration (src : HdrSrc)
  /-- `FL.SIDELEN src` (spec/41_frame_length.md R110). -/
  | flSidelen (src : HdrSrc)
  /-- `FL.CRCLEN src` (spec/41_frame_length.md R111). -/
  | flCrclen (src : HdrSrc)
  /-- `FD.LEN` (spec/43_frame_access.md R131). -/
  | fdLen
  /-- `FD.CRC` (spec/43_frame_access.md R132). -/
  | fdCrc
  /-- `FD.BYTE idx` (spec/43_frame_access.md R133). -/
  | fdByte (idx : Nat)
  /-- `FD.SIDE idx` (spec/43_frame_access.md R134). -/
  | fdSide (idx : Nat)
deriving DecidableEq, Repr

/-- The operand `src` in assembler text (spec/30_encoding.md R62). -/
def HdrSrc.asm : HdrSrc → String
  | .frame => "f"
  | .probe => "p"

/-- Assembler text of a command, numbers in decimal (spec/30_encoding.md R62). -/
def Instr.asm : Instr → String
  | .nop => "NOP"
  | .decode => "DECODE"
  | .ldprobe w => "LDPROBE " ++ toString w.toNat
  | .rdstat => "RDSTAT"
  | .rdskip => "RDSKIP"
  | .hfRaw src => "HF.RAW " ++ src.asm
  | .hfVersion src => "HF.VERSION " ++ src.asm
  | .hfLayer src => "HF.LAYER " ++ src.asm
  | .hfProtection src => "HF.PROTECTION " ++ src.asm
  | .hfBitrate src => "HF.BITRATE " ++ src.asm
  | .hfSamplerate src => "HF.SAMPLERATE " ++ src.asm
  | .hfPad src => "HF.PAD " ++ src.asm
  | .hfPrivate src => "HF.PRIVATE " ++ src.asm
  | .hfChmode src => "HF.CHMODE " ++ src.asm
  | .hfCopyright src => "HF.COPYRIGHT " ++ src.asm
  | .hfOriginal src => "HF.ORIGINAL " ++ src.asm
  | .hfEmphasis src => "HF.EMPHASIS " ++ src.asm
  | .hfLegal src => "HF.LEGAL " ++ src.asm
  | .flSamples src => "FL.SAMPLES " ++ src.asm
  | .flSize src => "FL.SIZE " ++ src.asm
  | .flDuration src => "FL.DURATION " ++ src.asm
  | .flSidelen src => "FL.SIDELEN " ++ src.asm
  | .flCrclen src => "FL.CRCLEN " ++ src.asm
  | .fdLen => "FD.LEN"
  | .fdCrc => "FD.CRC"
  | .fdByte idx => "FD.BYTE " ++ toString idx
  | .fdSide idx => "FD.SIDE " ++ toString idx

end Sys2Proof
end

