-- ==== Sys2Proof/WellFormed.lean ====
section
/-! DEFINITION. Which commands are well formed: an index operand is a number from 0 to 2^32 - 1
(spec/30_encoding.md R58, R62). Every other operand is well formed by its type. -/

namespace Sys2Proof

/-- The index operand of format I fits the 32-bit argument word (spec/30_encoding.md R59). -/
def indexFits (idx : Nat) : Bool := decide (idx < 2 ^ 32)

/-- Well-formedness, one arm per constructor. -/
def Instr.wellFormed : Instr → Bool
  | .nop => true
  | .decode => true
  | .ldprobe _ => true
  | .rdstat => true
  | .rdskip => true
  | .hfRaw _ => true
  | .hfVersion _ => true
  | .hfLayer _ => true
  | .hfProtection _ => true
  | .hfBitrate _ => true
  | .hfSamplerate _ => true
  | .hfPad _ => true
  | .hfPrivate _ => true
  | .hfChmode _ => true
  | .hfCopyright _ => true
  | .hfOriginal _ => true
  | .hfEmphasis _ => true
  | .hfLegal _ => true
  | .flSamples _ => true
  | .flSize _ => true
  | .flDuration _ => true
  | .flSidelen _ => true
  | .flCrclen _ => true
  | .fdLen => true
  | .fdCrc => true
  | .fdByte idx => indexFits idx
  | .fdSide idx => indexFits idx

end Sys2Proof
end

