-- ==== Sys2Proof/Decode.lean ====
section
/-! DEFINITION. From command words to commands and back (spec/30_encoding.md R55, R57 to R61). -/

namespace Sys2Proof

/-- Why an opcode byte is unassigned: the four bullets of spec/30_encoding.md R61, by class and cause. -/
inductive DecodeError where
  /-- Class 0 with `S = 1`. -/
  | controlWithSource
  /-- Class 0 with `F >= 5`. -/
  | controlFunction
  /-- Class 1 with `F >= 13`. -/
  | headerFunction
  /-- Class 2 with `F >= 5`. -/
  | lengthFunction
  /-- Class 3 with `S = 1`. -/
  | dataWithSource
  /-- Class 3 with `F >= 4`. -/
  | dataFunction
deriving DecidableEq, Repr

/-- `cmd_op[7:0]`, the upper byte of the command word (spec/30_encoding.md R55). -/
def cmdOp (w : CmdWord) : Byte := w.extractLsb' 32 8

/-- `cmd_arg[31:0]` (spec/30_encoding.md R55). -/
def cmdArg (w : CmdWord) : Word := w.extractLsb' 0 32

/-- The command word of an opcode byte and an argument: `{cmd_op, cmd_arg}` (spec/30_encoding.md R55). -/
def cmdWord (op : Byte) (arg : Word) : CmdWord := (op ++ arg).cast rfl

/-- `C = cmd_op[7:6]` (spec/30_encoding.md R57). -/
def opClass (op : Byte) : Nat := (op.extractLsb' 6 2).toNat

/-- `S = cmd_op[5]` (spec/30_encoding.md R57). -/
def opSource (op : Byte) : HdrSrc := if op.getLsbD 5 then .probe else .frame

/-- `F = cmd_op[4:0]` (spec/30_encoding.md R57). -/
def opFunction (op : Byte) : Nat := (op.extractLsb' 0 5).toNat

/-- Class 0, control: `S` must be 0 and `F` is 0 to 4 (spec/30_encoding.md R58, R60). -/
def decodeControl (src : HdrSrc) (f : Nat) (arg : Word) : Except DecodeError Instr :=
  match src with
  | .probe => .error .controlWithSource
  | .frame =>
    match f with
    | 0 => .ok .nop
    | 1 => .ok .decode
    | 2 => .ok (.ldprobe arg)
    | 3 => .ok .rdstat
    | 4 => .ok .rdskip
    | _ => .error .controlFunction

/-- Class 1, header fields: `F` is 0 to 12 (spec/30_encoding.md R58, R60). -/
def decodeHeaderField (src : HdrSrc) (f : Nat) : Except DecodeError Instr :=
  match f with
  | 0 => .ok (.hfRaw src)
  | 1 => .ok (.hfVersion src)
  | 2 => .ok (.hfLayer src)
  | 3 => .ok (.hfProtection src)
  | 4 => .ok (.hfBitrate src)
  | 5 => .ok (.hfSamplerate src)
  | 6 => .ok (.hfPad src)
  | 7 => .ok (.hfPrivate src)
  | 8 => .ok (.hfChmode src)
  | 9 => .ok (.hfCopyright src)
  | 10 => .ok (.hfOriginal src)
  | 11 => .ok (.hfEmphasis src)
  | 12 => .ok (.hfLegal src)
  | _ => .error .headerFunction

/-- Class 2, frame length: `F` is 0 to 4 (spec/30_encoding.md R58, R60). -/
def decodeFrameLength (src : HdrSrc) (f : Nat) : Except DecodeError Instr :=
  match f with
  | 0 => .ok (.flSamples src)
  | 1 => .ok (.flSize src)
  | 2 => .ok (.flDuration src)
  | 3 => .ok (.flSidelen src)
  | 4 => .ok (.flCrclen src)
  | _ => .error .lengthFunction

/-- Class 3, frame data: `S` must be 0 and `F` is 0 to 3; the index is the whole argument, unsigned
(spec/30_encoding.md R58, R59, R60). -/
def decodeFrameData (src : HdrSrc) (f : Nat) (arg : Word) : Except DecodeError Instr :=
  match src with
  | .probe => .error .dataWithSource
  | .frame =>
    match f with
    | 0 => .ok .fdLen
    | 1 => .ok .fdCrc
    | 2 => .ok (.fdByte arg.toNat)
    | 3 => .ok (.fdSide arg.toNat)
    | _ => .error .dataFunction

/-- The decoder, total on every command word (spec/30_encoding.md R60, R61). -/
def decodeWord (w : CmdWord) : Except DecodeError Instr :=
  match opClass (cmdOp w) with
  | 0 => decodeControl (opSource (cmdOp w)) (opFunction (cmdOp w)) (cmdArg w)
  | 1 => decodeHeaderField (opSource (cmdOp w)) (opFunction (cmdOp w))
  | 2 => decodeFrameLength (opSource (cmdOp w)) (opFunction (cmdOp w))
  | _ => decodeFrameData (opSource (cmdOp w)) (opFunction (cmdOp w)) (cmdArg w)

/-- The bit `S` of a header source (spec/30_encoding.md R57). -/
def sourceBit : HdrSrc → BitVec 1
  | .frame => 0#1
  | .probe => 1#1

/-- The opcode byte `{C[1:0], S, F[4:0]}` (spec/30_encoding.md R57). -/
def opcode (c : BitVec 2) (src : HdrSrc) (f : BitVec 5) : Byte := (c ++ sourceBit src ++ f).cast rfl

/-- The opcode byte of a command (spec/30_encoding.md R60). -/
def Instr.opcode : Instr → Byte
  | .nop => Sys2Proof.opcode 0 .frame 0
  | .decode => Sys2Proof.opcode 0 .frame 1
  | .ldprobe _ => Sys2Proof.opcode 0 .frame 2
  | .rdstat => Sys2Proof.opcode 0 .frame 3
  | .rdskip => Sys2Proof.opcode 0 .frame 4
  | .hfRaw src => Sys2Proof.opcode 1 src 0
  | .hfVersion src => Sys2Proof.opcode 1 src 1
  | .hfLayer src => Sys2Proof.opcode 1 src 2
  | .hfProtection src => Sys2Proof.opcode 1 src 3
  | .hfBitrate src => Sys2Proof.opcode 1 src 4
  | .hfSamplerate src => Sys2Proof.opcode 1 src 5
  | .hfPad src => Sys2Proof.opcode 1 src 6
  | .hfPrivate src => Sys2Proof.opcode 1 src 7
  | .hfChmode src => Sys2Proof.opcode 1 src 8
  | .hfCopyright src => Sys2Proof.opcode 1 src 9
  | .hfOriginal src => Sys2Proof.opcode 1 src 10
  | .hfEmphasis src => Sys2Proof.opcode 1 src 11
  | .hfLegal src => Sys2Proof.opcode 1 src 12
  | .flSamples src => Sys2Proof.opcode 2 src 0
  | .flSize src => Sys2Proof.opcode 2 src 1
  | .flDuration src => Sys2Proof.opcode 2 src 2
  | .flSidelen src => Sys2Proof.opcode 2 src 3
  | .flCrclen src => Sys2Proof.opcode 2 src 4
  | .fdLen => Sys2Proof.opcode 3 .frame 0
  | .fdCrc => Sys2Proof.opcode 3 .frame 1
  | .fdByte _ => Sys2Proof.opcode 3 .frame 2
  | .fdSide _ => Sys2Proof.opcode 3 .frame 3

/-- The argument word of a command: the operand in formats W and I, zero where `cmd_arg` is ignored
(spec/30_encoding.md R58, R59; log entry 7). -/
def Instr.argument : Instr → Word
  | .nop => 0
  | .decode => 0
  | .ldprobe word => word
  | .rdstat => 0
  | .rdskip => 0
  | .hfRaw _ => 0
  | .hfVersion _ => 0
  | .hfLayer _ => 0
  | .hfProtection _ => 0
  | .hfBitrate _ => 0
  | .hfSamplerate _ => 0
  | .hfPad _ => 0
  | .hfPrivate _ => 0
  | .hfChmode _ => 0
  | .hfCopyright _ => 0
  | .hfOriginal _ => 0
  | .hfEmphasis _ => 0
  | .hfLegal _ => 0
  | .flSamples _ => 0
  | .flSize _ => 0
  | .flDuration _ => 0
  | .flSidelen _ => 0
  | .flCrclen _ => 0
  | .fdLen => 0
  | .fdCrc => 0
  | .fdByte idx => BitVec.ofNat 32 idx
  | .fdSide idx => BitVec.ofNat 32 idx

/-- The encoder (spec/30_encoding.md R57 to R60). -/
def encode (i : Instr) : CmdWord := cmdWord i.opcode i.argument

/-- The command word of an instruction numbered as spec/opcode_table.json numbers bits: the opcode byte is bits
7..0 and `cmd_arg` counts on from it as bits 39..8; bits from `nbits` up are 0 (log entry 8). -/
def tableCmdWord (nbits w : Nat) : CmdWord :=
  cmdWord (BitVec.ofNat 8 (w % 2 ^ nbits)) (BitVec.ofNat 32 (w % 2 ^ nbits / 2 ^ 8))

/-- The instruction the decoder reads from a table-numbered word, if it reads one. -/
def decodeTableWord (nbits w : Nat) : Option Instr :=
  match decodeWord (tableCmdWord nbits w) with
  | .ok i => some i
  | .error _ => none

end Sys2Proof
end

