-- ==== Sys2Proof/Machine/State.lean ====
section
/-! DEFINITION. The state of the block (spec/10_state.md R14, R30), its outputs, and the environment it runs in, as
plain data. -/

namespace Sys2Proof.Machine

/-- PHASE (spec/10_state.md R15). Codes 5 to 7 are never held, so the type has no name for them (log entry 10). -/
inductive Phase where
  | idle
  | sync
  | crc
  | side
  | payload
deriving DecidableEq, Repr

/-- The 3-bit code of PHASE (spec/10_state.md R15). -/
def Phase.code : Phase → BitVec 3
  | .idle => 0#3
  | .sync => 1#3
  | .crc => 2#3
  | .side => 3#3
  | .payload => 4#3

/-- RESULT (spec/60_exceptions.md R136). Codes 8 to 15 are never held, so the type has no name for them (log entry 10). -/
inductive DecodeResult where
  | none
  | ok
  | noSyncFound
  | prematureEos
  | sourceError
  | invalidVersionForSideinfo
  | invalidChannelMode
  | frameTooShort
deriving DecidableEq, Repr

/-- The 4-bit code of RESULT (spec/60_exceptions.md R136). -/
def DecodeResult.code : DecodeResult → BitVec 4
  | .none => 0#4
  | .ok => 1#4
  | .noSyncFound => 2#4
  | .prematureEos => 3#4
  | .sourceError => 4#4
  | .invalidVersionForSideinfo => 5#4
  | .invalidChannelMode => 6#4
  | .frameTooShort => 7#4

/-- The response codes (spec/30_encoding.md R56). -/
inductive RspCode where
  | ok
  | busy
  | noFrame
  | range
  | illegalOp
  | notLegal
deriving DecidableEq, Repr

/-- The 4-bit `rsp_code` (spec/30_encoding.md R56). -/
def RspCode.code : RspCode → BitVec 4
  | .ok => 0#4
  | .busy => 1#4
  | .noFrame => 2#4
  | .range => 3#4
  | .illegalOp => 4#4
  | .notLegal => 5#4

/-- A command's response, `(rsp_code, rsp_data)` (spec/30_encoding.md R55). -/
structure Response where
  code : RspCode
  data : Word
deriving DecidableEq, Repr

/-- What the byte source answers to one `SrcRead()` (spec/20_memory.md R43). -/
inductive SrcAnswer where
  | byte (b : Byte)
  | eof
  | err (e : BitVec 8)
deriving DecidableEq, Repr

/-- One thing the host does on the command port: issue a command word, or run the WAIT loop
(spec/30_encoding.md R55, R62). -/
inductive HostAct where
  | issue (w : CmdWord)
  | wait
deriving DecidableEq, Repr

/-- Whose move a step is (spec/00_scope.md R5), or an event on the block's other inputs. -/
inductive Turn where
  /-- The host issues its next command. -/
  | host
  /-- The engine takes its enabled step; where that step needs a byte, it issues the `SrcRead()`. -/
  | engine
  /-- The source answers the pending `SrcRead()`, which completes that engine step. -/
  | source
  /-- The host connects a byte source that will give these answers (spec/60_exceptions.md R152). -/
  | connect (answers : List SrcAnswer)
  /-- The reset input; the source's further answers are a fresh draw (spec/70_reset_and_hazards.md R153, U23). -/
  | reset (answers : List SrcAnswer)
deriving DecidableEq, Repr

/-- FBUF as cells (index, byte), in the canonical form `Memory.wf`: indices strictly rising and below `P_BUF`. An index
that is not listed holds no value: reading it faults (spec/10_state.md R18, spec/60_exceptions.md R151; log entry 4). -/
abbrev Memory := List Host.Cell

/-- The state: the block's registers, FBUF and pending fetch; its outputs in the last step; the environment. -/
structure State where
  /-- PHASE, 3 bits. -/
  phase : Phase
  /-- FRAME_VALID. -/
  frameValid : Bool
  /-- RESULT, 4 bits. -/
  result : DecodeResult
  /-- SRC_ERR. -/
  srcErr : BitVec 8
  /-- SKIP. -/
  skip : Word
  /-- SKIP_SAT. -/
  skipSat : Bool
  /-- PROBE. -/
  probe : Word
  /-- BUF_LEN. -/
  bufLen : BufAddr
  /-- FBUF. -/
  fbuf : Memory
  /-- A `SrcRead()` is issued and not yet answered (spec/10_state.md R30, spec/42_synchronizer.md R113). -/
  pending : Bool
  /-- Output: the response the last step gave, if it was a command (log entry 3). -/
  rsp : Option Response
  /-- Output: DONE fired in the last step (spec/10_state.md R23; log entry 3). -/
  done : Bool
  /-- Environment: the answers the attached source still gives, oldest first (log entry 2). -/
  src : List SrcAnswer
  /-- Environment: the attached source's position, in bytes delivered (spec/10_state.md R30; log entry 11). -/
  srcTaken : Nat
  /-- Environment: what the host still does on the command port, oldest first (log entry 2). -/
  host : List HostAct
  /-- Environment: whose turn the coming steps are, oldest first (log entry 2). -/
  sched : List Turn
deriving DecidableEq, Repr

/-- The state after reset (spec/10_state.md R32), with nothing placed in the environment. -/
def State.reset : State where
  phase := .idle
  frameValid := false
  result := .none
  srcErr := 0#8
  skip := 0#32
  skipSat := false
  probe := 0#32
  bufLen := 0#12
  fbuf := []
  pending := false
  rsp := none
  done := false
  src := []
  srcTaken := 0
  host := []
  sched := []

/-- Why the machine stops. All three are the model's faults of spec/60_exceptions.md R151; no reachable state raises one.
Each is safe: the block goes on nowhere the model stops. -/
inductive Fault where
  /-- Raised by a host, engine or source turn in a state that breaks spec/10_state.md R31. Safe: R151 calls such a state
  unreachable and says that a model that reaches one faults. -/
  | unreachableState
  /-- Raised by every read of FBUF at an index that holds no value or is `>= BUF_LEN`. Safe: R151 says that such a read
  faults and never gives a value. -/
  | bufReadBeyondLen
  /-- Raised where `size(H)` or `side_len(H)` is needed of a header for which the spec defines none (spec/41_frame_length.md
  R98, R110). Safe: no command and no engine step of a reachable state evaluates it there. -/
  | lengthUndefined
deriving DecidableEq, Repr

/-- Why the model has no meaning for an instruction. Every instruction has one, so nothing raises this. -/
inductive Refusal where
  /-- Raised by an arm of `exec` whose instruction has no meaning yet; no arm is left so. Safe. -/
  | notModelled (mnemonic : String)
deriving DecidableEq, Repr

/-- What a command, a turn or a step ends in. -/
abbrev Outcome := Host.Outcome State Fault Refusal

end Sys2Proof.Machine
end

