-- ==== Sys2Proof/Machine/Ops.lean ====
section
/-! DEFINITION. The named operations over FBUF and the registers: byte reads and writes, BUF_LEN, a command's response,
and the end of a decode. `State.finish` is this block's one form of an exception: there is no trap entry, no saved
register and no return (spec/60_exceptions.md R135, R141, R142). -/

namespace Sys2Proof.Machine

/-! ### FBUF -/

/-- The canonical form: indices strictly rising and below `P_BUF` (spec/20_memory.md R34). No index reads as a default
value, so no entry equals one. -/
def Memory.wf (m : Memory) : Bool :=
  decide ((m.map Prod.fst).Pairwise (· < ·)) && m.all fun c => decide (c.1 < Config.pBuf)

/-- The byte an index holds, if it holds one. -/
def Memory.read : Memory → Nat → Option Byte
  | [], _ => none
  | c :: m, a => if c.1 = a then some c.2 else Memory.read m a

/-- Store a byte at an index, keeping the canonical form. -/
def Memory.write : Memory → Nat → Byte → Memory
  | [], a, b => [(a, b)]
  | c :: m, a, b =>
    if a < c.1 then (a, b) :: c :: m
    else if a = c.1 then (a, b) :: m
    else c :: Memory.write m a b

/-- Every index from `n` up holds no value any more. -/
def Memory.forgetFrom (m : Memory) (n : Nat) : Memory := m.filter fun c => decide (c.1 < n)

/-- `buf[i]`: no value at an index `>= BUF_LEN` (spec/00_scope.md R10, spec/10_state.md R18). -/
def State.bufRead (s : State) (i : Nat) : Option Byte :=
  if i < s.bufLen.toNat then Memory.read s.fbuf i else none

/-- `buf[i] <- b` (spec/00_scope.md R10, spec/20_memory.md R34). -/
def State.bufWrite (s : State) (i : BufAddr) (b : Byte) : State :=
  { s with fbuf := Memory.write s.fbuf i.toNat b }

/-- `BUF_LEN <- n`; the bytes at indices `>= n` are unspecified from then on (spec/10_state.md R18; log entry 4). -/
def State.setBufLen (s : State) (n : BufAddr) : State :=
  { s with bufLen := n, fbuf := Memory.forgetFrom s.fbuf n.toNat }

/-- `{buf[0], buf[1], buf[2], buf[3]}` (spec/20_memory.md R35). -/
def State.frameHeader (s : State) : Option Word :=
  match s.bufRead 0, s.bufRead 1, s.bufRead 2, s.bufRead 3 with
  | some b0, some b1, some b2, some b3 => some (headerWord b0 b1 b2 b3)
  | _, _, _, _ => none

/-- `{buf[4], buf[5]}`, the more significant byte first (spec/20_memory.md R36). -/
def State.frameCrc (s : State) : Option (BitVec 16) :=
  match s.bufRead 4, s.bufRead 5 with
  | some b4, some b5 => some ((b4 ++ b5).cast rfl)
  | _, _ => none

/-! ### Responses -/

/-- `respond(OK, data)` (spec/00_scope.md R10, spec/30_encoding.md R56). -/
def State.respond (s : State) (data : Word) : State := { s with rsp := some ⟨.ok, data⟩ }

/-- `respond(code, 0)` for a code other than OK: data 0, and no other state changes (spec/30_encoding.md R56). -/
def State.refuse (s : State) (code : RspCode) : State := { s with rsp := some ⟨code, 0#32⟩ }

/-- The outputs before a step: no response, DONE not fired. -/
def State.clearOutputs (s : State) : State := { s with rsp := none, done := false }

/-! ### The end of a decode and the start of one -/

/-- `finish(kind)` (spec/42_synchronizer.md R121): RESULT, FRAME_VALID, PHASE and DONE; SKIP, SKIP_SAT, BUF_LEN, FBUF and
SRC_ERR keep their values. -/
def State.finish (s : State) (kind : DecodeResult) : State :=
  { s with result := kind, frameValid := kind == .ok, phase := .idle, done := true }

/-- The register writes of an accepted DECODE (spec/42_synchronizer.md R126). -/
def State.startDecode (s : State) : State :=
  { s.setBufLen 0#12 with
    skip := 0#32, skipSat := false, frameValid := false, result := .none, srcErr := 0#8, phase := .sync }

/-- Reset of the block: every register as spec/10_state.md R32 says, DONE not fired, a pending fetch withdrawn. The
host's further acts and the schedule stay; the source's further answers are a fresh draw (spec/70_reset_and_hazards.md
R153, U23; log entry 9). -/
def State.resetBlock (s : State) (answers : List SrcAnswer) : State :=
  { State.reset with src := answers, host := s.host, sched := s.sched }

end Sys2Proof.Machine
end

