-- ==== Sys2Proof/Machine/Flags.lean ====
section
/-! DEFINITION. The flags and STATUS (spec/10_state.md R19, R21, R22). FRAME_VALID is set and cleared by `State.finish`
and `State.startDecode`. -/

namespace Sys2Proof.Machine

/-- `BUSY = (PHASE != IDLE)`, not stored (spec/10_state.md R21). -/
def State.busy (s : State) : Bool := s.phase != .idle

/-- A flag as the one-bit field of STATUS. -/
def flagBit (b : Bool) : BitVec 1 := BitVec.ofBool b

/-- A flag zero-extended to 32 bits. -/
def flagWord (b : Bool) : Word := (flagBit b).setWidth 32

/-- STATUS: `{13'b0, PHASE, SRC_ERR, RESULT, 1'b0, SKIP_SAT, FRAME_VALID, BUSY}` (spec/42_synchronizer.md R128,
spec/10_state.md R22). -/
def State.status (s : State) : Word :=
  (0#13 ++ s.phase.code ++ s.srcErr ++ s.result.code ++ 0#1 ++ flagBit s.skipSat ++ flagBit s.frameValid
    ++ flagBit s.busy).cast rfl

/-- `skip_add(n)`: SKIP saturates at 0xFFFFFFFF, and SKIP_SAT is set when an addition would pass that value
(spec/42_synchronizer.md R117, spec/10_state.md R19). -/
def State.skipAdd (s : State) (n : Nat) : State :=
  if s.skip.toNat + n > Config.skipMax then { s with skip := BitVec.ofNat 32 Config.skipMax, skipSat := true }
  else { s with skip := BitVec.ofNat 32 (s.skip.toNat + n) }

end Sys2Proof.Machine
end

