-- ==== Sys2Proof/Machine/Operands.lean ====
section
/-! DEFINITION. Operand assembly (spec/30_encoding.md R59) and the common beginnings of the HF, FL and FD commands. -/

namespace Sys2Proof.Machine

/-- The prologue of every `f`-source and FD command: NO_FRAME while FRAME_VALID = 0 (spec/40_header_fields.md R79,
spec/43_frame_access.md R130). -/
def whenFrameValid (s : State) (k : Outcome) : Outcome :=
  if s.frameValid then k else .next (s.refuse .noFrame)

/-- Read the header `{buf[0], buf[1], buf[2], buf[3]}` of the frame in FBUF (spec/20_memory.md R35). -/
def withFrameHeader (s : State) (k : Word → Outcome) : Outcome :=
  match s.frameHeader with
  | some h => k h
  | none => .fault .bufReadBeyondLen

/-- `HDR(S)` for a command: PROBE for `p`, the frame's header for `f` (spec/30_encoding.md R59). -/
def withHeader (src : HdrSrc) (s : State) (k : Word → Outcome) : Outcome :=
  match src with
  | .probe => k s.probe
  | .frame => whenFrameValid s (withFrameHeader s k)

/-- An HF command with its function of the header word (spec/40_header_fields.md R79). -/
def hfCommand (value : Word → Word) (src : HdrSrc) (s : State) : Outcome :=
  withHeader src s fun h => .next (s.respond (value h))

/-- An FL command with its function of the header word: NOT_LEGAL unless the header is legal (spec/41_frame_length.md
R106). A value the spec does not define for the header is no number, and the model faults there; a legal header has
every value (R94, R98). -/
def flCommand (value : Word → Option Nat) (src : HdrSrc) (s : State) : Outcome :=
  withHeader src s fun h =>
    if legal h then
      match value h with
      | some n => .next (s.respond (BitVec.ofNat 32 n))
      | none => .fault .lengthUndefined
    else .next (s.refuse .notLegal)

/-- `respond(OK, zext_32(buf[i]))`. -/
def respondByte (s : State) (i : Nat) : Outcome :=
  match s.bufRead i with
  | some b => .next (s.respond (b.setWidth 32))
  | none => .fault .bufReadBeyondLen

end Sys2Proof.Machine
end

