-- ==== Sys2Proof/Machine/Control.lean ====
section
/-! DEFINITION. The control commands (spec/42_synchronizer.md section 3). -/

namespace Sys2Proof.Machine

/-- NOP: OK with data 0, also while BUSY (spec/42_synchronizer.md R125). -/
def execNop (s : State) : Outcome := .next (s.respond 0#32)

/-- DECODE: refused with BUSY while a decode runs, else starts one (spec/42_synchronizer.md R126). -/
def execDecode (s : State) : Outcome :=
  if s.busy then .next (s.refuse .busy) else .next (s.startDecode.respond 0#32)

/-- LDPROBE `imm`: PROBE <- the argument word, also while BUSY (spec/42_synchronizer.md R127). -/
def execLdprobe (word : Word) (s : State) : Outcome := .next ({ s with probe := word }.respond 0#32)

/-- RDSTAT: OK with STATUS (spec/42_synchronizer.md R128). -/
def execRdstat (s : State) : Outcome := .next (s.respond s.status)

/-- RDSKIP: OK with SKIP, the running count during a decode (spec/42_synchronizer.md R129). -/
def execRdskip (s : State) : Outcome := .next (s.respond s.skip)

end Sys2Proof.Machine
end

