-- ==== Sys2Proof/Machine/FrameData.lean ====
section
/-! DEFINITION. The FD commands (spec/43_frame_access.md section 2). -/

namespace Sys2Proof.Machine

/-- FD.LEN: the frame's byte length, BUF_LEN (spec/43_frame_access.md R131). -/
def execFdLen (s : State) : Outcome := whenFrameValid s (.next (s.respond (s.bufLen.setWidth 32)))

/-- FD.CRC: the stored CRC word, or 0 when the header says that there is none (spec/43_frame_access.md R132). -/
def execFdCrc (s : State) : Outcome :=
  whenFrameValid s <| withFrameHeader s fun h =>
    if crcPresent h then
      match s.frameCrc with
      | some c => .next (s.respond (c.setWidth 32))
      | none => .fault .bufReadBeyondLen
    else .next (s.respond 0#32)

/-- FD.BYTE `idx`: RANGE unless `idx < BUF_LEN`, compared at full width; else the byte (spec/43_frame_access.md R133). -/
def execFdByte (idx : Nat) (s : State) : Outcome :=
  whenFrameValid s <| if s.bufLen.toNat ≤ idx then .next (s.refuse .range) else respondByte s idx

/-- FD.SIDE `idx`: RANGE unless `idx < side_len(H)`; else the byte at `4 + crc_len(H) + idx` (spec/43_frame_access.md
R134). -/
def execFdSide (idx : Nat) (s : State) : Outcome :=
  whenFrameValid s <| withFrameHeader s fun h =>
    match sideLen h with
    | none => .fault .lengthUndefined
    | some sl => if sl ≤ idx then .next (s.refuse .range) else respondByte s (4 + crcLen h + idx)

end Sys2Proof.Machine
end

