-- ==== Sys2Proof/Machine/FrameLength.lean ====
section
/-! DEFINITION. The FL commands (spec/41_frame_length.md section 4): R106 with one function of a legal header each. -/

namespace Sys2Proof.Machine

/-- FL.SAMPLES `src`: the samples per frame (spec/41_frame_length.md R107). -/
def execFlSamples (src : HdrSrc) (s : State) : Outcome := flCommand (fun h => some (samples h)) src s

/-- FL.SIZE `src`: the frame size in bytes (spec/41_frame_length.md R108). -/
def execFlSize (src : HdrSrc) (s : State) : Outcome := flCommand (fun h => some (frameSize h)) src s

/-- FL.DURATION `src`: the frame duration in whole milliseconds (spec/41_frame_length.md R109). -/
def execFlDuration (src : HdrSrc) (s : State) : Outcome := flCommand (fun h => some (duration h)) src s

/-- FL.SIDELEN `src`: the side-info length in bytes (spec/41_frame_length.md R110). -/
def execFlSidelen (src : HdrSrc) (s : State) : Outcome := flCommand sideLen src s

/-- FL.CRCLEN `src`: the CRC length in bytes (spec/41_frame_length.md R111). -/
def execFlCrclen (src : HdrSrc) (s : State) : Outcome := flCommand (fun h => some (crcLen h)) src s

end Sys2Proof.Machine
end

