-- ==== Sys2Proof/Machine/HeaderField.lean ====
section
/-! DEFINITION. The HF commands (spec/40_header_fields.md section 2): R79 with one function of the header word each. -/

namespace Sys2Proof.Machine

/-- HF.RAW `src`: read the raw header word (spec/40_header_fields.md R80). -/
def execHfRaw (src : HdrSrc) (s : State) : Outcome := hfCommand (fun h => h) src s

/-- HF.VERSION `src`: read the version code (spec/40_header_fields.md R81). -/
def execHfVersion (src : HdrSrc) (s : State) : Outcome := hfCommand (fun h => (version h).setWidth 32) src s

/-- HF.LAYER `src`: read the layer code (spec/40_header_fields.md R82). -/
def execHfLayer (src : HdrSrc) (s : State) : Outcome := hfCommand (fun h => (layer h).setWidth 32) src s

/-- HF.PROTECTION `src`: read the protection bit, 1 for no CRC (spec/40_header_fields.md R83). -/
def execHfProtection (src : HdrSrc) (s : State) : Outcome := hfCommand (fun h => flagWord (protection h)) src s

/-- HF.BITRATE `src`: read the bitrate in bit/s, or INVALID (spec/40_header_fields.md R84). -/
def execHfBitrate (src : HdrSrc) (s : State) : Outcome := hfCommand bitrate src s

/-- HF.SAMPLERATE `src`: read the sample rate in Hz, or INVALID (spec/40_header_fields.md R85). -/
def execHfSamplerate (src : HdrSrc) (s : State) : Outcome := hfCommand samplerate src s

/-- HF.PAD `src`: read the padding bit (spec/40_header_fields.md R86). -/
def execHfPad (src : HdrSrc) (s : State) : Outcome := hfCommand (fun h => flagWord (pad h)) src s

/-- HF.PRIVATE `src`: read the private bit (spec/40_header_fields.md R87). -/
def execHfPrivate (src : HdrSrc) (s : State) : Outcome := hfCommand (fun h => flagWord (privateBit h)) src s

/-- HF.CHMODE `src`: read the channel-mode code (spec/40_header_fields.md R88). -/
def execHfChmode (src : HdrSrc) (s : State) : Outcome := hfCommand (fun h => (chmode h).setWidth 32) src s

/-- HF.COPYRIGHT `src`: read the copyright bit (spec/40_header_fields.md R89). -/
def execHfCopyright (src : HdrSrc) (s : State) : Outcome := hfCommand (fun h => flagWord (copyright h)) src s

/-- HF.ORIGINAL `src`: read the original bit (spec/40_header_fields.md R90). -/
def execHfOriginal (src : HdrSrc) (s : State) : Outcome := hfCommand (fun h => flagWord (original h)) src s

/-- HF.EMPHASIS `src`: read the emphasis code (spec/40_header_fields.md R91). -/
def execHfEmphasis (src : HdrSrc) (s : State) : Outcome := hfCommand (fun h => (emphasis h).setWidth 32) src s

/-- HF.LEGAL `src`: read the legality predicate (spec/40_header_fields.md R92). -/
def execHfLegal (src : HdrSrc) (s : State) : Outcome := hfCommand (fun h => flagWord (legal h)) src s

end Sys2Proof.Machine
end

