-- ==== Sys2Proof/Machine/Dispatch.lean ====
section
/-! DEFINITION. One arm per command. -/

namespace Sys2Proof.Machine

def exec (i : Instr) (s : State) : Host.Outcome State Fault Refusal :=
  match i with
  | .nop => Sys2Proof.Machine.execNop s
  | .decode => Sys2Proof.Machine.execDecode s
  | .ldprobe word => Sys2Proof.Machine.execLdprobe word s
  | .rdstat => Sys2Proof.Machine.execRdstat s
  | .rdskip => Sys2Proof.Machine.execRdskip s
  | .hfRaw src => Sys2Proof.Machine.execHfRaw src s
  | .hfVersion src => Sys2Proof.Machine.execHfVersion src s
  | .hfLayer src => Sys2Proof.Machine.execHfLayer src s
  | .hfProtection src => Sys2Proof.Machine.execHfProtection src s
  | .hfBitrate src => Sys2Proof.Machine.execHfBitrate src s
  | .hfSamplerate src => Sys2Proof.Machine.execHfSamplerate src s
  | .hfPad src => Sys2Proof.Machine.execHfPad src s
  | .hfPrivate src => Sys2Proof.Machine.execHfPrivate src s
  | .hfChmode src => Sys2Proof.Machine.execHfChmode src s
  | .hfCopyright src => Sys2Proof.Machine.execHfCopyright src s
  | .hfOriginal src => Sys2Proof.Machine.execHfOriginal src s
  | .hfEmphasis src => Sys2Proof.Machine.execHfEmphasis src s
  | .hfLegal src => Sys2Proof.Machine.execHfLegal src s
  | .flSamples src => Sys2Proof.Machine.execFlSamples src s
  | .flSize src => Sys2Proof.Machine.execFlSize src s
  | .flDuration src => Sys2Proof.Machine.execFlDuration src s
  | .flSidelen src => Sys2Proof.Machine.execFlSidelen src s
  | .flCrclen src => Sys2Proof.Machine.execFlCrclen src s
  | .fdLen => Sys2Proof.Machine.execFdLen s
  | .fdCrc => Sys2Proof.Machine.execFdCrc s
  | .fdByte idx => Sys2Proof.Machine.execFdByte idx s
  | .fdSide idx => Sys2Proof.Machine.execFdSide idx s

end Sys2Proof.Machine
end

