-- ==== Sys2Proof/Machine/Engine.lean ====
section
/-! DEFINITION. The stream synchronizer's engine (spec/42_synchronizer.md section 1). A spec engine step that fetches is
two transitions here: the engine issues the `SrcRead()`, and the source's answer completes the step (log entry 1). -/

namespace Sys2Proof.Machine

/-- `need(PHASE, H)`, the byte count a phase ensures (spec/42_synchronizer.md R114); `none` where ERR_VERSION or IDLE
leaves no count. -/
def need (p : Phase) (h : Word) : Option Nat :=
  match p with
  | .idle => none
  | .sync => some 4
  | .crc => some 6
  | .side => (sideLen h).map fun sl => 4 + crcLen h + sl
  | .payload => some (frameSize h)

/-- Issue one `SrcRead()`: until the source answers, the engine has no step (spec/20_memory.md R43). -/
def issueFetch (s : State) : Outcome := .next { s with pending := true }

/-- `buf[BUF_LEN] <- b; BUF_LEN <- BUF_LEN + 1` (spec/42_synchronizer.md R115). -/
def State.append (s : State) (b : Byte) : State := (s.bufWrite s.bufLen b).setBufLen (s.bufLen + 1#12)

/-- The effect of the source's answer to a fetch (spec/42_synchronizer.md R115). -/
def answerFetch (a : SrcAnswer) (s : State) : State :=
  match a with
  | .byte b => { s.append b with srcTaken := s.srcTaken + 1 }
  | .eof => s.finish (if s.phase = .sync then .noSyncFound else .prematureEos)
  | .err e => { s with srcErr := e }.finish .sourceError

/-- The discard (spec/42_synchronizer.md R117): drop 1 byte if `buf[1] = 0xFF`, else 2. -/
def discard (s : State) : Outcome :=
  match s.bufRead 1, s.bufRead 2, s.bufRead 3 with
  | some b1, some b2, some b3 =>
    if b1 = 0xFF#8 then .next (((((s.bufWrite 0#12 b1).bufWrite 1#12 b2).bufWrite 2#12 b3).setBufLen 3#12).skipAdd 1)
    else .next ((((s.bufWrite 0#12 b2).bufWrite 1#12 b3).setBufLen 2#12).skipAdd 2)
  | _, _, _ => .fault .bufReadBeyondLen

/-- The engine step in PHASE = SYNC (spec/42_synchronizer.md R116). -/
def engineSync (s : State) : Outcome :=
  if s.bufLen.toNat < 4 then issueFetch s
  else withFrameHeader s fun h =>
    if legal h then .next { s with phase := if crcPresent h then .crc else .side } else discard s

/-- The engine step in PHASE = CRC (spec/42_synchronizer.md R118). -/
def engineCrc (s : State) : Outcome :=
  if s.bufLen.toNat < 6 then issueFetch s else .next { s with phase := .side }

/-- The engine step in PHASE = SIDE; the version check comes before the fetch (spec/42_synchronizer.md R119,
spec/60_exceptions.md R140). -/
def engineSide (s : State) : Outcome :=
  withFrameHeader s fun h =>
    match sideLen h with
    | none => .next (s.finish .invalidVersionForSideinfo)
    | some sl => if s.bufLen.toNat < 4 + crcLen h + sl then issueFetch s else .next { s with phase := .payload }

/-- The engine step in PHASE = PAYLOAD; the short-frame check comes before the fetch (spec/42_synchronizer.md R120,
spec/90_conflicts.md C1). `size(H)` is evaluated on a legal header only (spec/41_frame_length.md R98). -/
def enginePayload (s : State) : Outcome :=
  withFrameHeader s fun h =>
    if legal h then
      if frameSize h < s.bufLen.toNat then .next (s.finish .frameTooShort)
      else if s.bufLen.toNat < frameSize h then issueFetch s
      else .next (s.finish .ok)
    else .fault .lengthUndefined

/-- One engine step, if one is enabled: PHASE != IDLE and no `SrcRead()` waits for an answer
(spec/42_synchronizer.md R113). -/
def engineTurn (s : State) : Outcome :=
  if s.pending then .next s
  else
    match s.phase with
    | .idle => .next s
    | .sync => engineSync s
    | .crc => engineCrc s
    | .side => engineSide s
    | .payload => enginePayload s

/-- The source answers the pending `SrcRead()` with its next answer. With none pending it is not asked and answers
nothing; with no answer left it does not answer, and the engine is held (spec/20_memory.md R43, R44). -/
def sourceTurn (s : State) : Outcome :=
  if s.pending then
    match s.src with
    | [] => .next s
    | a :: rest => .next (answerFetch a { s with pending := false, src := rest })
  else .next s

end Sys2Proof.Machine
end

