-- ==== Sys2Proof/Machine/Turns.lean ====
section
/-! DEFINITION. The agents' turns (spec/00_scope.md R5, spec/60_exceptions.md R151, R152). -/

namespace Sys2Proof.Machine

/-- The header in FBUF is legal. -/
def State.headerLegal (s : State) : Bool := s.frameHeader.any legal

/-- BUF_LEN is the size of the header in FBUF. -/
def State.lengthIsSize (s : State) : Bool := s.frameHeader.any fun h => s.bufLen.toNat == frameSize h

/-- The five invariants of spec/10_state.md R31, and RESULT never 6 (spec/60_exceptions.md R136, R151). -/
abbrev State.R31 (s : State) : Prop :=
  (s.frameValid = true → s.phase = .idle ∧ s.result = .ok ∧ s.headerLegal = true ∧ s.lengthIsSize = true) ∧
  (s.phase ≠ .idle → s.frameValid = false ∧ s.result = .none) ∧
  ((s.phase = .crc ∨ s.phase = .side ∨ s.phase = .payload) → 4 ≤ s.bufLen.toNat ∧ s.headerLegal = true) ∧
  (s.phase = .sync → s.bufLen.toNat ≤ 4) ∧
  s.bufLen.toNat ≤ Config.maxFrame ∧
  s.result ≠ .invalidChannelMode

/-- A transition of a state that keeps R31; in any other the model faults (spec/60_exceptions.md R151; log entry 5). -/
def inReachable (s : State) (k : Outcome) : Outcome := if s.R31 then k else .fault .unreachableState

/-- One command of the host: its effect and its response. An unassigned opcode byte changes no state and answers
ILLEGAL_OP (spec/30_encoding.md R61, spec/60_exceptions.md R139). -/
def runCommand (w : CmdWord) (s : State) : Outcome :=
  match decodeWord w with
  | .ok i => exec i s
  | .error _ => .next (s.refuse .illegalOp)

/-- One pass of the host's WAIT loop: RDSTAT, and again while `rsp_data[0] = 1` (spec/30_encoding.md R62; log entry 14). -/
def runWait (after : List HostAct) (s : State) : Outcome :=
  match execRdstat s with
  | .next t => .next (if (t.rsp.any fun r => r.data.getLsbD 0) then t else { t with host := after })
  | .fault f => .fault f
  | .refused r => .refused r

/-- The host's next act, if it has one. -/
def hostTurn (s : State) : Outcome :=
  match s.host with
  | [] => .next s
  | .issue w :: rest => runCommand w { s with host := rest }
  | .wait :: rest => runWait rest s

/-- The host connects a byte source. While a decode runs the host is assumed never to do so, and the turn does nothing
(spec/60_exceptions.md R152; log entry 9). -/
def connectTurn (answers : List SrcAnswer) (s : State) : Outcome :=
  if s.busy then .next s else .next { s with src := answers, srcTaken := 0 }

/-- One turn. Reset works in any state (spec/70_reset_and_hazards.md R153). -/
def takeTurn (t : Turn) (s : State) : Outcome :=
  match t with
  | .host => inReachable s (hostTurn s)
  | .engine => inReachable s (engineTurn s)
  | .source => inReachable s (sourceTurn s)
  | .connect answers => inReachable s (connectTurn answers s)
  | .reset answers => .next (s.resetBlock answers)

/-- The next turn of the schedule. With none left no agent moves, and only the outputs of the last step are gone
(log entry 2). -/
def nextTurn (s : State) : Outcome :=
  match s.sched with
  | [] => .next s.clearOutputs
  | t :: rest => takeTurn t { s.clearOutputs with sched := rest }

/-- A command word placed as the host's next act, on the host's turn (log entry 8). -/
def State.placeCommand (s : State) (w : CmdWord) : State :=
  { s with host := .issue w :: s.host, sched := .host :: s.sched }

end Sys2Proof.Machine
end

