-- ==== Sys2Proof/Machine/Step.lean ====
section
/-! DEFINITION. One step: the next turn of the schedule. Where the host's word is placed for its next turn. -/

namespace Sys2Proof.Machine

/-- One step of the machine: one atomic transition of one agent (spec/00_scope.md R5, spec/20_memory.md R39, R46). -/
def step (s : State) : Host.Outcome State Fault Refusal := nextTurn s

/-- `s` with the table-numbered word as the command the host issues in the very next step (log entry 8). -/
def State.withFetchWord (s : State) (nbits w : Nat) : State := s.placeCommand (tableCmdWord nbits w)

end Sys2Proof.Machine
end

