-- ==== Sys2Proof/Machine/Reference.lean ====
section
/-! DEFINITION. The source's floating-point reference formulas (spec/41_frame_length.md R97, R103), in IEEE 754 binary64
with round-to-nearest-even, over exact fractions. The block does not use them: it uses the integer forms of R98 and
R104. They stand here so that R99 and R105 can be stated (log entry 15). -/

namespace Sys2Proof.Machine.Reference

/-- The denominator of every rounded value below. -/
def scale : Nat := 2 ^ 64

/-- The binary64 value nearest to `num / den`, ties to even, as a numerator over `scale`. It is exact for
`2^-12 <= num / den`, where the significand's unit is a multiple of `1 / scale` and no exponent limit is near; every
value of R97 and R103 lies there. -/
def round64 (num den : Nat) : Nat :=
  let ulp := 2 ^ ((num * scale / den).log2 - 52)
  let q := num * scale / (den * ulp)
  let r := num * scale % (den * ulp)
  if den * ulp < 2 * r ∨ (den * ulp = 2 * r ∧ q % 2 = 1) then (q + 1) * ulp else q * ulp

/-- `trunc` of a rounded value. -/
def truncate (x : Nat) : Nat := x / scale

/-- `fsize` of R97: `((samples / 8) * bitrate) / samplerate`, each operation rounded. -/
def fsize (samples bitrate samplerate : Nat) : Nat :=
  round64 (round64 (round64 samples 8 * bitrate) scale) (samplerate * scale)

/-- `size_ref(H)` (spec/41_frame_length.md R97). -/
def sizeRef (h : Word) : Nat := truncate (fsize (samples h) (bitrate h).toNat (samplerate h).toNat) + padBytes h

/-- `ms_f` of R103: `(1000 / samplerate) * samples`, each operation rounded. -/
def msec (samples samplerate : Nat) : Nat := round64 (round64 1000 samplerate * samples) scale

/-- `duration_ref(H)` (spec/41_frame_length.md R103). -/
def durationRef (h : Word) : Nat := truncate (msec (samples h) (samplerate h).toNat)

end Sys2Proof.Machine.Reference
end

