-- ==== Sys2Proof/Safety.lean ====
section
/-! DEFINITION. What counts as a good state, and the words in which the claims are stated. -/

namespace Sys2Proof.Machine

/-! ### The invariant -/

/-- Header, CRC and side info: the bytes before the payload (spec/30_encoding.md R54). -/
def headLength (h : Word) : Nat := 4 + crcLen h + (sideLen h).getD 0

/-- FBUF holds a value at exactly the indices `0 .. BUF_LEN-1` (spec/10_state.md R18). -/
abbrev State.BufferFilled (s : State) : Prop := s.fbuf.map Prod.fst = List.range s.bufLen.toNat

/-- The engine's phase needs a byte it does not hold (spec/42_synchronizer.md R114). -/
def State.wantsByte (s : State) : Bool :=
  match s.phase with
  | .idle => false
  | .sync => decide (s.bufLen.toNat < 4)
  | .crc => decide (s.bufLen.toNat < 6)
  | .side => s.frameHeader.any fun h => (need .side h).any fun n => decide (s.bufLen.toNat < n)
  | .payload => s.frameHeader.any fun h => (need .payload h).any fun n => decide (s.bufLen.toNat < n)

/-- What the header in FBUF satisfies. -/
abbrev State.HeaderSatisfies (s : State) (p : Word → Prop) [DecidablePred p] : Prop :=
  (s.frameHeader.any fun h => decide (p h)) = true

/-- How far each phase has come (spec/42_synchronizer.md R114, spec/43_frame_access.md R130). -/
abbrev State.PhaseProgress (s : State) : Prop :=
  (s.phase = .crc → s.HeaderSatisfies fun h => crcPresent h = true ∧ s.bufLen.toNat ≤ 6) ∧
  (s.phase = .side → s.HeaderSatisfies fun h => 4 + crcLen h ≤ s.bufLen.toNat ∧ s.bufLen.toNat ≤ headLength h) ∧
  (s.phase = .payload → s.HeaderSatisfies fun h =>
    headLength h ≤ s.bufLen.toNat ∧ (s.bufLen.toNat ≤ frameSize h ∨ s.bufLen.toNat = headLength h)) ∧
  (s.frameValid = true → s.HeaderSatisfies fun h => headLength h ≤ frameSize h)

/-- What stands recorded with a decode's outcome (spec/60_exceptions.md R136, spec/10_state.md R19, R22). -/
abbrev State.OutcomeRecorded (s : State) : Prop :=
  (s.result = .ok → s.frameValid = true) ∧
  (s.result = .noSyncFound → s.bufLen.toNat ≤ 3) ∧
  (s.result = .prematureEos → 4 ≤ s.bufLen.toNat) ∧
  (s.result = .frameTooShort → s.HeaderSatisfies fun h => frameSize h < headLength h ∧ s.bufLen.toNat = headLength h) ∧
  s.result ≠ .invalidVersionForSideinfo ∧
  (s.srcErr ≠ 0#8 → s.result = .sourceError) ∧
  (s.skipSat = true → s.skip.toNat = Config.skipMax)

/-- The model's invariant: spec/10_state.md R31 and what is needed beside it for every read of FBUF to have a value.
It holds after reset and every step keeps it. -/
abbrev State.Inv (s : State) : Prop :=
  s.R31 ∧ s.BufferFilled ∧ (s.pending = true → s.wantsByte = true) ∧ s.PhaseProgress ∧ s.OutcomeRecorded

/-! ### Responses and headers as the claims name them -/

/-- `s` after an OK response whose data is `n`, and nothing else changed. -/
def State.okWith (s : State) (n : Nat) : State := { s with rsp := some ⟨.ok, BitVec.ofNat 32 n⟩ }

/-- `s` after a response with a code other than OK and data 0, and nothing else changed. -/
def State.refusedWith (s : State) (c : RspCode) : State := { s with rsp := some ⟨c, 0#32⟩ }

/-- FBUF bytes 0 to 3 are the big-endian word `h` (spec/20_memory.md R35). -/
def State.HoldsHeader (s : State) (h : Word) : Prop :=
  ∃ b0 b1 b2 b3, s.bufRead 0 = some b0 ∧ s.bufRead 1 = some b1 ∧ s.bufRead 2 = some b2 ∧ s.bufRead 3 = some b3 ∧
    h.toNat = b0.toNat * 2 ^ 24 + b1.toNat * 2 ^ 16 + b2.toNat * 2 ^ 8 + b3.toNat

/-- The header word a command with source `src` reads is `h` (spec/30_encoding.md R59). -/
def HeaderSelected (src : HdrSrc) (s : State) (h : Word) : Prop :=
  match src with
  | .probe => s.probe = h
  | .frame => s.frameValid = true ∧ s.HoldsHeader h

/-- `s` with its next turn taken off the schedule and the outputs of the last step gone. -/
def State.begun (s : State) (rest : List Turn) : State := { s with rsp := none, done := false, sched := rest }

/-- An unassigned opcode byte: the four bullets of spec/30_encoding.md R61, by `C = op / 64`, `S = op / 32 % 2` and
`F = op % 32`. -/
abbrev UnassignedOpcode (op : Byte) : Prop :=
  (op.toNat / 64 = 0 ∧ (op.toNat / 32 % 2 = 1 ∨ 5 ≤ op.toNat % 32)) ∨
  (op.toNat / 64 = 1 ∧ 13 ≤ op.toNat % 32) ∨
  (op.toNat / 64 = 2 ∧ 5 ≤ op.toNat % 32) ∨
  (op.toNat / 64 = 3 ∧ (op.toNat / 32 % 2 = 1 ∨ 4 ≤ op.toNat % 32))

/-! ### Engine rounds and the stream function -/

/-- `k` steps of the machine, which stop at the first fault or refusal. -/
def runSteps : Nat → State → Outcome
  | 0, s => .next s
  | k + 1, s =>
    match step s with
    | .next t => runSteps k t
    | .fault f => .fault f
    | .refused r => .refused r

/-- `n` spec engine steps of a source that answers every fetch at once: in each round the engine takes its turn and the
source answers if it was asked. -/
def engineRounds : Nat → List Turn
  | 0 => []
  | n + 1 => .engine :: .source :: engineRounds n

/-- `s` about to run `n` engine rounds against a source that gives these answers. -/
def State.against (s : State) (answers : List SrcAnswer) (n : Nat) : State :=
  { s with src := answers, sched := engineRounds n }

/-- A decode has just been started. -/
abbrev State.DecodeStarted (s : State) : Prop :=
  s.Inv ∧ s.phase = .sync ∧ s.bufLen = 0#12 ∧ s.pending = false ∧ s.skip = 0#32 ∧ s.skipSat = false

/-- The first position of a byte string at which a legal header stands, and that header (spec/42_synchronizer.md R122):
every position is looked at, in order. -/
def firstLegal : List Byte → Option (Nat × Word)
  | b0 :: b1 :: b2 :: b3 :: rest =>
    if legal (headerWord b0 b1 b2 b3) then some (0, headerWord b0 b1 b2 b3)
    else (firstLegal (b1 :: b2 :: b3 :: rest)).map fun x => (x.1 + 1, x.2)
  | _ => none

/-- RESULT of a decode whose source ends with `last` before the bytes it needs are there. -/
def endedBy (last : SrcAnswer) (atEof : DecodeResult) : DecodeResult :=
  match last with
  | .byte _ => .none
  | .eof => atEof
  | .err _ => .sourceError

/-- RESULT of a decode of the byte string `bs` followed by the answer `last`, from the string alone
(spec/42_synchronizer.md R120, R122, spec/60_exceptions.md R136). -/
def expectedResult (bs : List Byte) (last : SrcAnswer) : DecodeResult :=
  match firstLegal bs with
  | none => endedBy last .noSyncFound
  | some (p, h) =>
    if bs.length < p + headLength h then endedBy last .prematureEos
    else if frameSize h < headLength h then .frameTooShort
    else if bs.length < p + frameSize h then endedBy last .prematureEos
    else .ok

/-- How many bytes of `bs` the decode takes from the source (spec/20_memory.md R44). -/
def expectedTaken (bs : List Byte) : Nat :=
  match firstLegal bs with
  | none => bs.length
  | some (p, h) => min bs.length (p + max (headLength h) (frameSize h))

/-! ### Tables of the spec -/

/-- The table of spec/41_frame_length.md R100: version code, layer code, sample-rate index, and `size(H)` for bitrate
index 1 to 14 with `pad(H) = 0`. -/
def sizeTable : List (BitVec 2 × BitVec 2 × BitVec 2 × List Nat) := [
  (3, 3, 0, [34, 69, 104, 139, 174, 208, 243, 278, 313, 348, 383, 417, 452, 487]),
  (3, 3, 1, [32, 64, 96, 128, 160, 192, 224, 256, 288, 320, 352, 384, 416, 448]),
  (3, 3, 2, [48, 96, 144, 192, 240, 288, 336, 384, 432, 480, 528, 576, 624, 672]),
  (3, 2, 0, [104, 156, 182, 208, 261, 313, 365, 417, 522, 626, 731, 835, 1044, 1253]),
  (3, 2, 1, [96, 144, 168, 192, 240, 288, 336, 384, 480, 576, 672, 768, 960, 1152]),
  (3, 2, 2, [144, 216, 252, 288, 360, 432, 504, 576, 720, 864, 1008, 1152, 1440, 1728]),
  (3, 1, 0, [104, 130, 156, 182, 208, 261, 313, 365, 417, 522, 626, 731, 835, 1044]),
  (3, 1, 1, [96, 120, 144, 168, 192, 240, 288, 336, 384, 480, 576, 672, 768, 960]),
  (3, 1, 2, [144, 180, 216, 252, 288, 360, 432, 504, 576, 720, 864, 1008, 1152, 1440]),
  (2, 3, 0, [69, 104, 121, 139, 174, 208, 243, 278, 313, 348, 383, 417, 487, 557]),
  (2, 3, 1, [64, 96, 112, 128, 160, 192, 224, 256, 288, 320, 352, 384, 448, 512]),
  (2, 3, 2, [96, 144, 168, 192, 240, 288, 336, 384, 432, 480, 528, 576, 672, 768]),
  (2, 2, 0, [52, 104, 156, 208, 261, 313, 365, 417, 522, 626, 731, 835, 940, 1044]),
  (2, 2, 1, [48, 96, 144, 192, 240, 288, 336, 384, 480, 576, 672, 768, 864, 960]),
  (2, 2, 2, [72, 144, 216, 288, 360, 432, 504, 576, 720, 864, 1008, 1152, 1296, 1440]),
  (2, 1, 0, [26, 52, 78, 104, 130, 156, 182, 208, 261, 313, 365, 417, 470, 522]),
  (2, 1, 1, [24, 48, 72, 96, 120, 144, 168, 192, 240, 288, 336, 384, 432, 480]),
  (2, 1, 2, [36, 72, 108, 144, 180, 216, 252, 288, 360, 432, 504, 576, 648, 720]),
  (0, 3, 0, [139, 208, 243, 278, 348, 417, 487, 557, 626, 696, 766, 835, 975, 1114]),
  (0, 3, 1, [128, 192, 224, 256, 320, 384, 448, 512, 576, 640, 704, 768, 896, 1024]),
  (0, 3, 2, [192, 288, 336, 384, 480, 576, 672, 768, 864, 960, 1056, 1152, 1344, 1536]),
  (0, 2, 0, [104, 208, 313, 417, 522, 626, 731, 835, 1044, 1253, 1462, 1671, 1880, 2089]),
  (0, 2, 1, [96, 192, 288, 384, 480, 576, 672, 768, 960, 1152, 1344, 1536, 1728, 1920]),
  (0, 2, 2, [144, 288, 432, 576, 720, 864, 1008, 1152, 1440, 1728, 2016, 2304, 2592, 2880]),
  (0, 1, 0, [52, 104, 156, 208, 261, 313, 365, 417, 522, 626, 731, 835, 940, 1044]),
  (0, 1, 1, [48, 96, 144, 192, 240, 288, 336, 384, 480, 576, 672, 768, 864, 960]),
  (0, 1, 2, [72, 144, 216, 288, 360, 432, 504, 576, 720, 864, 1008, 1152, 1296, 1440])
]

/-- The table of spec/41_frame_length.md R105: version code, sample-rate index, and the duration of 384, 576 and 1152
samples; 0 where the spec says that no header gives the pair. -/
def durationTable : List (BitVec 2 × BitVec 2 × Nat × Nat × Nat) := [
  (3, 0, 8, 0, 26),
  (3, 1, 8, 0, 24),
  (3, 2, 12, 0, 36),
  (2, 0, 17, 26, 52),
  (2, 1, 16, 24, 48),
  (2, 2, 24, 36, 72),
  (0, 0, 34, 52, 104),
  (0, 1, 32, 48, 96),
  (0, 2, 48, 72, 144)
]

/-- A header word from its fields, with sync bits, no CRC, and 0 in every other field. -/
def headerOf (v l : BitVec 2) (i : BitVec 4) (s : BitVec 2) : Word :=
  (0x7FF#11 ++ v ++ l ++ 1#1 ++ i ++ s ++ 0#10).cast rfl

end Sys2Proof.Machine
end

