-- ==== Sys2Proof/Certificates/Slice0/Obligations.lean ====
section
/-! DEFINITION. The statements about the model. None is about a program. -/

open Sys2Proof Sys2Proof.Machine

/-! ### Encoding -/

/-- Decoding an encoded well-formed command gives it back, with every operand at every value the encoding admits
(spec/30_encoding.md R57 to R60). The word has `cmd_arg` 0 where the block ignores it (log entry 7). -/
def Obligations.DecodeOfEncodeIsTheCommand : Prop :=
  ∀ i : Instr, i.wellFormed = true → decodeWord (encode i) = .ok i

/-- A decoded word's command is well formed, keeps the word's opcode byte, and encodes back to the word itself wherever
`cmd_arg` is an operand: opcode bytes 0x02, 0xC2 and 0xC3 (spec/30_encoding.md R58, R59). -/
def Obligations.EncodeOfDecodeIsTheWord : Prop :=
  ∀ (w : CmdWord) (i : Instr), decodeWord w = .ok i →
    i.wellFormed = true ∧ cmdOp (encode i) = cmdOp w ∧
    ((cmdOp w = 0x02#8 ∨ cmdOp w = 0xC2#8 ∨ cmdOp w = 0xC3#8) → encode i = w)

/-- Exactly the 211 bytes of R61 are unassigned, whatever `cmd_arg` holds, and an unassigned command changes no state
and answers ILLEGAL_OP with data 0 (spec/30_encoding.md R61). -/
def Obligations.UnassignedOpcodesAnswerIllegalOp : Prop :=
  ((List.range 256).filter fun n => decide (UnassignedOpcode (BitVec.ofNat 8 n))).length = 211 ∧
  (∀ (op : Byte) (arg : Word), (∃ i, decodeWord (cmdWord op arg) = .ok i) ↔ ¬ UnassignedOpcode op) ∧
  ∀ (s : State) (w : CmdWord) (rest : List Turn) (acts : List HostAct),
    s.R31 → s.sched = .host :: rest → s.host = .issue w :: acts → UnassignedOpcode (cmdOp w) →
    step s = .next { s.begun rest with host := acts, rsp := some ⟨.illegalOp, 0#32⟩ }

/-- The argument word is the whole header word of LDPROBE and the unsigned index of FD.BYTE and FD.SIDE, and beside
every other opcode byte it changes nothing (spec/30_encoding.md R59). -/
def Obligations.ArgumentWordIsWholeOrIgnored : Prop :=
  ∀ (op : Byte) (a b : Word),
    decodeWord (cmdWord 0x02#8 a) = .ok (.ldprobe a) ∧
    decodeWord (cmdWord 0xC2#8 a) = .ok (.fdByte a.toNat) ∧
    decodeWord (cmdWord 0xC3#8 a) = .ok (.fdSide a.toNat) ∧
    (op ≠ 0x02#8 → op ≠ 0xC2#8 → op ≠ 0xC3#8 → decodeWord (cmdWord op a) = decodeWord (cmdWord op b))

/-- Command words written out from the opcode map decode to the commands they stand for (spec/30_encoding.md R60). -/
def Obligations.WrittenOutWordsDecode : Prop :=
  decodeWord 0x00_00000000#40 = .ok .nop ∧
  decodeWord 0x01_00000000#40 = .ok .decode ∧
  decodeWord 0x02_FFFB9000#40 = .ok (.ldprobe 0xFFFB9000#32) ∧
  decodeWord 0x41_00000000#40 = .ok (.hfVersion .frame) ∧
  decodeWord 0x6C_00000000#40 = .ok (.hfLegal .probe) ∧
  decodeWord 0xA1_00000000#40 = .ok (.flSize .probe) ∧
  decodeWord 0x84_00000000#40 = .ok (.flCrclen .frame) ∧
  decodeWord 0xC2_000001A1#40 = .ok (.fdByte 417) ∧
  decodeWord 0xC3_00000009#40 = .ok (.fdSide 9) ∧
  decodeWord 0x21_00000000#40 = .error .controlWithSource

/-! ### The host's turn -/

/-- On the host's turn, a step is `exec` of the command the issued word decodes to, in the state with that act and that
turn taken off and the outputs of the last step gone. -/
def Obligations.StepRunsTheIssuedCommand : Prop :=
  ∀ (s : State) (w : CmdWord) (i : Instr) (rest : List Turn) (acts : List HostAct),
    s.R31 → s.sched = .host :: rest → s.host = .issue w :: acts → decodeWord w = .ok i →
    step s = exec i { s.begun rest with host := acts }

/-- A pass of WAIT issues RDSTAT; the host stays in the loop exactly while PHASE is not IDLE (spec/30_encoding.md R62;
that WAIT is an act of the host is log entry 14). -/
def Obligations.WaitPollsStatusUntilIdle : Prop :=
  ∀ (s : State) (rest : List Turn) (acts : List HostAct),
    s.R31 → s.sched = .host :: rest → s.host = .wait :: acts →
    step s = .next { s.begun rest with
      rsp := some ⟨.ok, s.status⟩, host := if s.phase = .idle then acts else s.host }

/-! ### Control commands -/

/-- NOP, opcode 0x00 with any `cmd_arg`, answers OK with data 0 and changes nothing, in every phase
(spec/42_synchronizer.md R125). -/
def Obligations.NopOnlyAnswers : Prop :=
  ∀ (s : State) (arg : Word), decodeWord (cmdWord 0x00#8 arg) = .ok .nop ∧ exec .nop s = .next (s.okWith 0)

/-- DECODE while IDLE starts a decode: BUF_LEN, SKIP, SKIP_SAT, FRAME_VALID and SRC_ERR are 0, RESULT is NONE, PHASE is
SYNC, and every register but FBUF, whose bytes are unspecified from BUF_LEN = 0 on, is otherwise unchanged. DECODE
while not IDLE answers BUSY and changes nothing (spec/42_synchronizer.md R126). -/
def Obligations.DecodeStartsOrAnswersBusy : Prop :=
  ∀ s : State,
    (s.phase = .idle → ∃ m : Memory, exec .decode s = .next { s with
      bufLen := 0#12, skip := 0#32, skipSat := false, frameValid := false, result := .none, srcErr := 0#8,
      phase := .sync, fbuf := m, rsp := some ⟨.ok, 0#32⟩ }) ∧
    (s.phase ≠ .idle → exec .decode s = .next (s.refusedWith .busy))

/-- LDPROBE, opcode 0x02, writes its whole `cmd_arg`, any word, to PROBE and nothing else, and answers OK with data 0,
in every phase (spec/42_synchronizer.md R127). -/
def Obligations.LdprobeWritesProbe : Prop :=
  ∀ (word : Word) (s : State), decodeWord (cmdWord 0x02#8 word) = .ok (.ldprobe word) ∧
    exec (.ldprobe word) s = .next { s with probe := word, rsp := some ⟨.ok, 0#32⟩ }

/-- RDSTAT, opcode 0x03 with any `cmd_arg`, answers the STATUS word: BUSY in bit 0, FRAME_VALID in bit 1, SKIP_SAT in
bit 2, 0 in bit 3, RESULT in bits 7:4, SRC_ERR in bits 15:8, PHASE in bits 18:16, 0 above; it changes nothing
(spec/42_synchronizer.md R128). -/
def Obligations.RdstatAnswersTheStatusLayout : Prop :=
  ∀ (s : State) (arg : Word), decodeWord (cmdWord 0x03#8 arg) = .ok .rdstat ∧ exec .rdstat s = .next (s.okWith
    (bit (s.phase != .idle) + 2 * bit s.frameValid + 4 * bit s.skipSat + 2 ^ 4 * s.result.code.toNat
      + 2 ^ 8 * s.srcErr.toNat + 2 ^ 16 * s.phase.code.toNat))

/-- RDSKIP, opcode 0x04 with any `cmd_arg`, answers SKIP, in every phase and after every kind of finish, and changes
nothing; in every state of the invariant a saturated count reads 0xFFFFFFFF (spec/42_synchronizer.md R129). -/
def Obligations.RdskipAnswersSkip : Prop :=
  ∀ (s : State) (arg : Word), decodeWord (cmdWord 0x04#8 arg) = .ok .rdskip ∧
    exec .rdskip s = .next (s.okWith s.skip.toNat) ∧
    (s.Inv → s.skipSat = true → exec .rdskip s = .next (s.okWith 0xFFFFFFFF))

/-! ### Header field commands -/

/-- The HF commands that return bits of the header answer those bits, zero-extended, and change nothing, for either
source and for every header word (spec/40_header_fields.md R79, with the fields of R64 to R66 and R71 to R76). -/
def Obligations.HeaderFieldCommandsAnswerTheirBits : Prop :=
  ∀ (src : HdrSrc) (s : State) (h : Word), HeaderSelected src s h →
    exec (.hfRaw src) s = .next (s.okWith h.toNat) ∧
    exec (.hfVersion src) s = .next (s.okWith (h.toNat / 2 ^ 19 % 4)) ∧
    exec (.hfLayer src) s = .next (s.okWith (h.toNat / 2 ^ 17 % 4)) ∧
    exec (.hfProtection src) s = .next (s.okWith (h.toNat / 2 ^ 16 % 2)) ∧
    exec (.hfPad src) s = .next (s.okWith (h.toNat / 2 ^ 9 % 2)) ∧
    exec (.hfPrivate src) s = .next (s.okWith (h.toNat / 2 ^ 8 % 2)) ∧
    exec (.hfChmode src) s = .next (s.okWith (h.toNat / 2 ^ 6 % 4)) ∧
    exec (.hfCopyright src) s = .next (s.okWith (h.toNat / 2 ^ 3 % 2)) ∧
    exec (.hfOriginal src) s = .next (s.okWith (h.toNat / 2 ^ 2 % 2)) ∧
    exec (.hfEmphasis src) s = .next (s.okWith (h.toNat % 4))

/-- While FRAME_VALID = 0 every command with source `f` and every FD command, whatever its index, answers NO_FRAME and
changes nothing (spec/40_header_fields.md R79, spec/41_frame_length.md R106, spec/43_frame_access.md R130,
spec/60_exceptions.md R139). -/
def Obligations.FrameCommandsWithoutFrameAnswerNoFrame : Prop :=
  ∀ (s : State) (idx : Nat), s.frameValid = false →
    ∀ i ∈ [Instr.hfRaw .frame, .hfVersion .frame, .hfLayer .frame, .hfProtection .frame, .hfBitrate .frame,
      .hfSamplerate .frame, .hfPad .frame, .hfPrivate .frame, .hfChmode .frame, .hfCopyright .frame, .hfOriginal .frame,
      .hfEmphasis .frame, .hfLegal .frame, .flSamples .frame, .flSize .frame, .flDuration .frame, .flSidelen .frame,
      .flCrclen .frame, .fdLen, .fdCrc, .fdByte idx, .fdSide idx],
    exec i s = .next (s.refusedWith .noFrame)

/-- HF.BITRATE answers the ROM entry times 1000, or INVALID for index 15 and for a zero entry; index 0 and the reserved
version and layer give INVALID, a header with index 0 is never legal, MPEG2.5 gives the MPEG2 value, and valid results
lie between 8000 and 448000 (spec/40_header_fields.md R69). -/
def Obligations.BitrateCommandAnswersTheRate : Prop :=
  (∀ (src : HdrSrc) (s : State) (h : Word), HeaderSelected src s h →
    exec (.hfBitrate src) s = .next (s.okWith (
      let e := (romBr (BitVec.ofNat 2 (h.toNat / 2 ^ 19)) (BitVec.ofNat 2 (h.toNat / 2 ^ 17))
        (BitVec.ofNat 4 (h.toNat / 2 ^ 12))).toNat
      if h.toNat / 2 ^ 12 % 16 = 15 then 0xFFFFFFFF else if e = 0 then 0xFFFFFFFF else e * 1000))) ∧
  (∀ v l : BitVec 2, bitrateOf v l 0#4 = 0xFFFFFFFF#32) ∧
  (∀ h : Word, h.toNat / 2 ^ 12 % 16 = 0 → legal h = false) ∧
  (∀ (l : BitVec 2) (i : BitVec 4), bitrateOf 1#2 l i = 0xFFFFFFFF#32) ∧
  (∀ (v : BitVec 2) (i : BitVec 4), bitrateOf v 0#2 i = 0xFFFFFFFF#32) ∧
  (∀ (l : BitVec 2) (i : BitVec 4), bitrateOf 0#2 l i = bitrateOf 2#2 l i) ∧
  ∀ h : Word, bitrate h ≠ 0xFFFFFFFF#32 → 8000 ≤ (bitrate h).toNat ∧ (bitrate h).toNat ≤ 448000

/-- HF.SAMPLERATE answers the ROM entry, or INVALID for index 3 alone; the reserved version with index 0 to 2 gives 0
(spec/40_header_fields.md R70). -/
def Obligations.SamplerateCommandAnswersTheRate : Prop :=
  (∀ (src : HdrSrc) (s : State) (h : Word), HeaderSelected src s h →
    exec (.hfSamplerate src) s = .next (s.okWith (
      if h.toNat / 2 ^ 10 % 4 = 3 then 0xFFFFFFFF
      else (romSr (BitVec.ofNat 2 (h.toNat / 2 ^ 19)) (BitVec.ofNat 2 (h.toNat / 2 ^ 10))).toNat))) ∧
  (∀ h : Word, samplerate h = 0xFFFFFFFF#32 ↔ h.toNat / 2 ^ 10 % 4 = 3) ∧
  ∀ h : Word, h.toNat / 2 ^ 19 % 4 = 1 → h.toNat / 2 ^ 10 % 4 ≠ 3 → samplerate h = 0#32 ∧ legal h = false

/-- The contents of the four ROMs, entry by entry (spec/10_state.md R25 to R29). -/
def Obligations.LookupRomsHoldTheSpecTables : Prop :=
  (∀ (l : BitVec 2) (i : BitVec 4), romBr 0#2 l i = romBr 2#2 l i) ∧
  (∀ l : BitVec 2, romSpf 0#2 l = romSpf 2#2 l) ∧
  (List.range 16).map (fun i => (romBr 3#2 3#2 (BitVec.ofNat 4 i)).toNat)
    = [0, 32, 64, 96, 128, 160, 192, 224, 256, 288, 320, 352, 384, 416, 448, 0] ∧
  (List.range 16).map (fun i => (romBr 3#2 2#2 (BitVec.ofNat 4 i)).toNat)
    = [0, 32, 48, 56, 64, 80, 96, 112, 128, 160, 192, 224, 256, 320, 384, 0] ∧
  (List.range 16).map (fun i => (romBr 3#2 1#2 (BitVec.ofNat 4 i)).toNat)
    = [0, 32, 40, 48, 56, 64, 80, 96, 112, 128, 160, 192, 224, 256, 320, 0] ∧
  (List.range 16).map (fun i => (romBr 2#2 3#2 (BitVec.ofNat 4 i)).toNat)
    = [0, 32, 48, 56, 64, 80, 96, 112, 128, 144, 160, 176, 192, 224, 256, 0] ∧
  (List.range 16).map (fun i => (romBr 2#2 2#2 (BitVec.ofNat 4 i)).toNat)
    = [0, 8, 16, 24, 32, 40, 48, 56, 64, 80, 96, 112, 128, 144, 160, 0] ∧
  (List.range 16).map (fun i => (romBr 2#2 1#2 (BitVec.ofNat 4 i)).toNat)
    = [0, 8, 16, 24, 32, 40, 48, 56, 64, 80, 96, 112, 128, 144, 160, 0] ∧
  (∀ (l : BitVec 2) (i : BitVec 4), romBr 1#2 l i = 0#9) ∧
  (∀ (v : BitVec 2) (i : BitVec 4), romBr v 0#2 i = 0#9) ∧
  (List.range 4).map (fun v => (List.range 4).map fun i => (romSr (BitVec.ofNat 2 v) (BitVec.ofNat 2 i)).toNat)
    = [[11025, 12000, 8000, 0], [0, 0, 0, 0], [22050, 24000, 16000, 0], [44100, 48000, 32000, 0]] ∧
  (List.range 4).map (fun v => (List.range 4).map fun l => (romSpf (BitVec.ofNat 2 v) (BitVec.ofNat 2 l)).toNat)
    = [[0, 576, 1152, 384], [0, 0, 0, 0], [0, 576, 1152, 384], [0, 1152, 1152, 384]] ∧
  (List.range 4).map (fun l => (romSlot (BitVec.ofNat 2 l)).toNat) = [1, 1, 1, 4]

/-- HF.LEGAL answers 1 if all six conditions hold and 0 otherwise, and changes nothing; protection, pad, private,
channel mode, copyright, original and H[5:4] never affect legality: two words that agree on the other bits are both
legal or both not (spec/40_header_fields.md R77, R92). -/
def Obligations.LegalCommandAnswersTheSixConditions : Prop :=
  (∀ (src : HdrSrc) (s : State) (h : Word), HeaderSelected src s h →
    exec (.hfLegal src) s = .next (s.okWith (
      if h.toNat / 2 ^ 21 = 0x7FF ∧ h.toNat % 4 ≠ 2 ∧ h.toNat / 2 ^ 17 % 4 ≠ 0 ∧ h.toNat / 2 ^ 19 % 4 ≠ 1 ∧
        samplerate h ≠ 0xFFFFFFFF#32 ∧ bitrate h ≠ 0xFFFFFFFF#32 then 1 else 0))) ∧
  ∀ g h : Word, g &&& 0xFFFEFC03#32 = h &&& 0xFFFEFC03#32 → legal g = legal h

/-- A legal header has one of the nine sample rates, a bitrate of at least 8000 from index 1 to 14, and no reserved
version or layer (spec/40_header_fields.md R78 items 1 to 3). -/
def Obligations.LegalHeadersHaveRates : Prop :=
  ∀ h : Word, legal h = true →
    (samplerate h).toNat ∈ [8000, 11025, 12000, 16000, 22050, 24000, 32000, 44100, 48000] ∧
    (bitrate h).toNat = 1000 * (romBr (version h) (layer h) (brIndex h)).toNat ∧
    1 ≤ (brIndex h).toNat ∧ (brIndex h).toNat ≤ 14 ∧ 8000 ≤ (bitrate h).toNat ∧
    (version h = 0#2 ∨ version h = 2#2 ∨ version h = 3#2) ∧ (layer h = 1#2 ∨ layer h = 2#2 ∨ layer h = 3#2)

/-- With a valid frame HF.LEGAL f answers 1: a frame's header is always legal (spec/40_header_fields.md R92,
spec/10_state.md R31 item 1). -/
def Obligations.FrameHeadersAreLegal : Prop :=
  ∀ s : State, s.Inv → s.frameValid = true → exec (.hfLegal .frame) s = .next (s.okWith 1)

/-! ### Frame length commands -/

/-- The FL commands answer their function of a legal header and change nothing; with a header that is not legal they
answer NOT_LEGAL and change nothing (spec/41_frame_length.md R93 to R96, R98, R104, R106). -/
def Obligations.FrameLengthCommandsAnswerTheirFunctions : Prop :=
  ∀ (src : HdrSrc) (s : State) (h : Word), HeaderSelected src s h →
    (legal h = false → ∀ i ∈ [Instr.flSamples src, .flSize src, .flDuration src, .flSidelen src, .flCrclen src],
      exec i s = .next (s.refusedWith .notLegal)) ∧
    (legal h = true →
      exec (.flSamples src) s = .next (s.okWith (romSpf (version h) (layer h)).toNat) ∧
      exec (.flSize src) s = .next (s.okWith (
        (romSpf (version h) (layer h)).toNat * (bitrate h).toNat / (8 * (samplerate h).toNat)
          + if h.toNat / 2 ^ 9 % 2 = 1 then (if h.toNat / 2 ^ 17 % 4 = 3 then 4 else 1) else 0)) ∧
      exec (.flDuration src) s = .next (s.okWith
        ((romSpf (version h) (layer h)).toNat * 1000 / (samplerate h).toNat)) ∧
      exec (.flSidelen src) s = .next (s.okWith (
        if h.toNat / 2 ^ 19 % 4 = 3 then (if h.toNat / 2 ^ 6 % 4 = 3 then 17 else 32)
        else (if h.toNat / 2 ^ 6 % 4 = 3 then 9 else 17))) ∧
      exec (.flCrclen src) s = .next (s.okWith (if h.toNat / 2 ^ 16 % 2 = 0 then 2 else 0)))

/-- The frame size of every legal header is the table's, with the pad slot added when the pad bit is set
(spec/41_frame_length.md R100). -/
def Obligations.FrameSizesAreTheTable : Prop :=
  ∀ h : Word, legal h = true → ∃ row ∈ sizeTable,
    row.1 = version h ∧ row.2.1 = layer h ∧ row.2.2.1 = srIndex h ∧
    frameSize h = row.2.2.2.getD ((brIndex h).toNat - 1) 0
      + if h.toNat / 2 ^ 9 % 2 = 1 then (if layer h = 3#2 then 4 else 1) else 0

/-- Over all legal headers the frame size runs from 24, of MPEG2 Layer III at 8000 bit/s and 24000 Hz unpadded, to
2881, of MPEG2.5 Layer II at 160000 bit/s and 8000 Hz padded, and the frame buffer holds every frame
(spec/41_frame_length.md R101). -/
def Obligations.FrameSizesRunFrom24To2881 : Prop :=
  (∀ h : Word, legal h = true → 24 ≤ frameSize h ∧ frameSize h ≤ 2881) ∧
  (∀ h : Word, legal h = true → version h = 2#2 → layer h = 1#2 → bitrate h = 8000#32 → samplerate h = 24000#32 →
    pad h = false → frameSize h = 24) ∧
  (∀ h : Word, legal h = true → version h = 0#2 → layer h = 2#2 → bitrate h = 160000#32 → samplerate h = 8000#32 →
    pad h = true → frameSize h = 2881) ∧
  (legal 0xFFF31400#32 = true ∧ frameSize 0xFFF31400#32 = 24) ∧
  (legal 0xFFE5EA00#32 = true ∧ frameSize 0xFFE5EA00#32 = 2881) ∧
  2881 ≤ Config.pBuf

/-- Exactly five header classes are shorter than their header, CRC and side info, and exactly two equal them
(spec/41_frame_length.md R102). -/
def Obligations.ShortFrameClassesAreTheFive : Prop :=
  ∀ h : Word, legal h = true →
    (frameSize h < headLength h ↔
      version h = 3#2 ∧ layer h = 3#2 ∧ brIndex h = 1#4 ∧ chmode h ≠ 3#2 ∧
      ((srIndex h = 0#2 ∧ pad h = false) ∨ (srIndex h = 1#2 ∧ pad h = false) ∨
        (srIndex h = 1#2 ∧ pad h = true ∧ protection h = false))) ∧
    (frameSize h = headLength h ↔
      version h = 3#2 ∧ layer h = 3#2 ∧ brIndex h = 1#4 ∧ chmode h ≠ 3#2 ∧
      ((srIndex h = 0#2 ∧ pad h = true ∧ protection h = false) ∨
        (srIndex h = 1#2 ∧ pad h = true ∧ protection h = true)))

/-- For every legal header the integer frame size equals the source's floating-point reference (spec/41_frame_length.md
R99; binary64 as log entry 15 says). -/
def Obligations.FrameSizeEqualsTheFloatReference : Prop :=
  ∀ h : Word, legal h = true → frameSize h = Reference.sizeRef h

/-- For every legal header the integer duration equals the source's floating-point reference and the table
(spec/41_frame_length.md R105; binary64 as log entry 15 says). -/
def Obligations.DurationEqualsTheFloatReference : Prop :=
  ∀ h : Word, legal h = true →
    duration h = Reference.durationRef h ∧
    ∃ row ∈ durationTable, row.1 = version h ∧ row.2.1 = srIndex h ∧
      ((samples h = 384 ∧ duration h = row.2.2.1) ∨ (samples h = 576 ∧ duration h = row.2.2.2.1) ∨
        (samples h = 1152 ∧ duration h = row.2.2.2.2))

/-! ### Frame data commands -/

/-- FD.LEN, opcode 0xC0 with any `cmd_arg`, answers BUF_LEN and changes nothing, and in every state of the invariant
that is FL.SIZE f (spec/43_frame_access.md R131). -/
def Obligations.FdLenAnswersTheBufferLength : Prop :=
  ∀ (s : State) (arg : Word), decodeWord (cmdWord 0xC0#8 arg) = .ok .fdLen ∧
    (s.frameValid = false → exec .fdLen s = .next (s.refusedWith .noFrame)) ∧
    (s.frameValid = true → exec .fdLen s = .next (s.okWith s.bufLen.toNat)) ∧
    (s.Inv → s.frameValid = true → exec (.flSize .frame) s = .next (s.okWith s.bufLen.toNat))

/-- FD.CRC, opcode 0xC1 with any `cmd_arg`, answers the two bytes after the header, the first the more significant,
when the header says that a CRC is present, and 0 otherwise; it changes nothing. In every state of the invariant those
bytes have values (spec/43_frame_access.md R132, spec/20_memory.md R36). -/
def Obligations.FdCrcAnswersTheStoredWord : Prop :=
  (∀ arg : Word, decodeWord (cmdWord 0xC1#8 arg) = .ok .fdCrc) ∧
  (∀ s : State, s.frameValid = false → exec .fdCrc s = .next (s.refusedWith .noFrame)) ∧
  ∀ (s : State) (h : Word), s.HoldsHeader h →
    (s.frameValid = true → h.toNat / 2 ^ 16 % 2 = 1 → exec .fdCrc s = .next (s.okWith 0)) ∧
    (s.frameValid = true → h.toNat / 2 ^ 16 % 2 = 0 → ∀ b4 b5, s.bufRead 4 = some b4 → s.bufRead 5 = some b5 →
      exec .fdCrc s = .next (s.okWith (b4.toNat * 2 ^ 8 + b5.toNat))) ∧
    (s.Inv → s.frameValid = true → h.toNat / 2 ^ 16 % 2 = 0 → ∃ b4 b5, s.bufRead 4 = some b4 ∧ s.bufRead 5 = some b5)

/-- FD.BYTE, opcode 0xC2 with its index as `cmd_arg`, answers NO_FRAME without a frame, RANGE from BUF_LEN on, compared
at full width, and else the byte; it changes nothing. In every state of the invariant each byte below BUF_LEN has a
value, and BUF_LEN is the declared size (spec/43_frame_access.md R133). -/
def Obligations.FdByteAnswersTheByteOrRange : Prop :=
  (∀ arg : Word, decodeWord (cmdWord 0xC2#8 arg) = .ok (.fdByte arg.toNat)) ∧
  ∀ (s : State) (idx : Nat),
    (s.frameValid = false → exec (.fdByte idx) s = .next (s.refusedWith .noFrame)) ∧
    (s.frameValid = true → s.bufLen.toNat ≤ idx → exec (.fdByte idx) s = .next (s.refusedWith .range)) ∧
    (s.frameValid = true → idx < s.bufLen.toNat → ∀ b, s.bufRead idx = some b →
      exec (.fdByte idx) s = .next (s.okWith b.toNat)) ∧
    (s.Inv → s.frameValid = true →
      (idx < s.bufLen.toNat → ∃ b, s.bufRead idx = some b) ∧ ∀ h, s.HoldsHeader h → s.bufLen.toNat = frameSize h)

/-- FD.SIDE, opcode 0xC3 with its index as `cmd_arg`, answers NO_FRAME without a frame, RANGE from `side_len(H)` on,
and else the byte at `4 + crc_len(H) + idx`; it changes nothing. In every state of the invariant `side_len(H)` and each
such byte have values (spec/43_frame_access.md R134). -/
def Obligations.FdSideAnswersTheSideInfoByteOrRange : Prop :=
  (∀ arg : Word, decodeWord (cmdWord 0xC3#8 arg) = .ok (.fdSide arg.toNat)) ∧
  (∀ (s : State) (idx : Nat), s.frameValid = false → exec (.fdSide idx) s = .next (s.refusedWith .noFrame)) ∧
  ∀ (s : State) (h : Word) (idx : Nat), s.HoldsHeader h →
    (∀ sl, sideLen h = some sl → s.frameValid = true → sl ≤ idx →
      exec (.fdSide idx) s = .next (s.refusedWith .range)) ∧
    (∀ sl, sideLen h = some sl → s.frameValid = true → idx < sl → ∀ b, s.bufRead (4 + crcLen h + idx) = some b →
      exec (.fdSide idx) s = .next (s.okWith b.toNat)) ∧
    (s.Inv → s.frameValid = true → ∃ sl, sideLen h = some sl ∧
      (sl = 9 ∨ sl = 17 ∨ sl = 32) ∧ (idx < sl → ∃ b, s.bufRead (4 + crcLen h + idx) = some b))

/-! ### All commands -/

/-- In every state of the invariant every command answers a next state with a response: no admitted command is refused
by the model, and none faults (spec/60_exceptions.md R151, spec/00_scope.md R11). -/
def Obligations.EveryCommandGetsAResponse : Prop :=
  ∀ (s : State) (i : Instr), s.Inv → ∃ t r, exec i s = .next t ∧ t.rsp = some r

/-- A response code other than OK comes with data 0, and the command changed no state (spec/30_encoding.md R56,
spec/60_exceptions.md R135). -/
def Obligations.RefusedCommandsChangeNothing : Prop :=
  ∀ (i : Instr) (s t : State), exec i s = .next t →
    ∃ r, t.rsp = some r ∧ (r.code ≠ .ok → r.data = 0#32 ∧ t = { s with rsp := some r })

/-- Every command but DECODE and LDPROBE changes nothing but the response: no register, no flag, no byte of FBUF, not
the pending fetch and nothing of the environment (spec/40_header_fields.md R79, spec/41_frame_length.md R106,
spec/43_frame_access.md R130, spec/42_synchronizer.md R125, R128, R129). -/
def Obligations.ReadCommandsChangeOnlyTheResponse : Prop :=
  ∀ (i : Instr) (s t : State), i ≠ .decode → (∀ w, i ≠ .ldprobe w) → exec i s = .next t →
    t = { s with rsp := t.rsp }

/-! ### The engine -/

/-- While PHASE is IDLE or a SrcRead waits for its answer the engine has no step: its turn changes nothing
(spec/42_synchronizer.md R113). -/
def Obligations.EngineIsHeldWhenIdleOrWaiting : Prop :=
  ∀ (s : State) (rest : List Turn), s.R31 → s.sched = .engine :: rest → (s.phase = .idle ∨ s.pending = true) →
    step s = .next (s.begun rest)

/-- The engine issues a SrcRead exactly when BUF_LEN is below the byte count its phase needs, and then changes nothing
else (spec/20_memory.md R44, spec/42_synchronizer.md R114). That issuing is a transition of its own is log entry 1. -/
def Obligations.EngineAsksExactlyForMissingBytes : Prop :=
  ∀ (s t : State) (rest : List Turn), s.sched = .engine :: rest → s.pending = false → step s = .next t →
    (t.pending = true ↔ s.wantsByte = true) ∧ (s.wantsByte = true → t = { s.begun rest with pending := true })

/-- The source's answer to a fetch: a byte is appended and every byte before it reads as before; Eof ends the decode
with NO_SYNC_FOUND in SYNC and PREMATURE_EOS in any other phase; Err(e) ends it with SOURCE_ERROR and SRC_ERR = e
(spec/42_synchronizer.md R115). The counter of delivered bytes is the model's own (log entry 11). -/
def Obligations.SourceAnswerAppendsOrEndsTheDecode : Prop :=
  ∀ (s : State) (rest : List Turn) (a : SrcAnswer) (more : List SrcAnswer),
    s.R31 → s.sched = .source :: rest → s.pending = true → s.src = a :: more →
    (∀ b, a = .byte b → ∃ m : Memory, ∃ t : State, step s = .next t ∧
      t = { s.begun rest with
        pending := false, src := more, srcTaken := s.srcTaken + 1, bufLen := s.bufLen + 1#12, fbuf := m } ∧
      t.bufLen.toNat = s.bufLen.toNat + 1 ∧ t.bufRead s.bufLen.toNat = some b ∧
      ∀ k < s.bufLen.toNat, t.bufRead k = s.bufRead k) ∧
    (a = .eof → step s = .next { s.begun rest with
      pending := false, src := more, result := if s.phase = .sync then .noSyncFound else .prematureEos,
      frameValid := false, phase := .idle, done := true }) ∧
    (∀ e, a = .err e → step s = .next { s.begun rest with
      pending := false, src := more, srcErr := e, result := .sourceError, frameValid := false, phase := .idle,
      done := true })

/-- In SYNC with four bytes held, a legal window moves on to CRC when the header says that a CRC is present and to SIDE
otherwise, and changes nothing else (spec/42_synchronizer.md R116). -/
def Obligations.LegalWindowEndsTheSearch : Prop :=
  ∀ (s : State) (rest : List Turn) (h : Word), s.R31 → s.sched = .engine :: rest → s.pending = false →
    s.phase = .sync → s.HoldsHeader h → legal h = true →
    step s = .next { s.begun rest with phase := if h.toNat / 2 ^ 16 % 2 = 0 then .crc else .side }

/-- In SYNC with four bytes held, an illegal window drops one byte if its second byte is 0xFF and two otherwise; SKIP
counts them, saturating with SKIP_SAT, and nothing else changes (spec/42_synchronizer.md R117). -/
def Obligations.IllegalWindowDropsOneOrTwoBytes : Prop :=
  ∀ (s : State) (rest : List Turn) (b0 b1 b2 b3 : Byte), s.R31 → s.sched = .engine :: rest → s.pending = false →
    s.phase = .sync → s.bufRead 0 = some b0 → s.bufRead 1 = some b1 → s.bufRead 2 = some b2 → s.bufRead 3 = some b3 →
    legal (headerWord b0 b1 b2 b3) = false →
    ∃ m : Memory, ∃ t : State, step s = .next t ∧
      (b1 = 0xFF#8 → t = { s.begun rest with
          bufLen := 3#12, fbuf := m, skip := BitVec.ofNat 32 (min (s.skip.toNat + 1) 0xFFFFFFFF),
          skipSat := s.skipSat || decide (0xFFFFFFFF < s.skip.toNat + 1) } ∧
        t.bufRead 0 = some b1 ∧ t.bufRead 1 = some b2 ∧ t.bufRead 2 = some b3) ∧
      (b1 ≠ 0xFF#8 → t = { s.begun rest with
          bufLen := 2#12, fbuf := m, skip := BitVec.ofNat 32 (min (s.skip.toNat + 2) 0xFFFFFFFF),
          skipSat := s.skipSat || decide (0xFFFFFFFF < s.skip.toNat + 2) } ∧
        t.bufRead 0 = some b2 ∧ t.bufRead 1 = some b3)

/-- In CRC with 6 bytes held the engine moves on to SIDE; in SIDE with the side info held it moves on to PAYLOAD;
nothing else changes (spec/42_synchronizer.md R118, R119). -/
def Obligations.FilledPhasesMoveOn : Prop :=
  ∀ (s : State) (rest : List Turn), s.R31 → s.sched = .engine :: rest → s.pending = false →
    (s.phase = .crc → 6 ≤ s.bufLen.toNat → step s = .next { s.begun rest with phase := .side }) ∧
    (s.phase = .side → ∀ h sl, s.HoldsHeader h → sideLen h = some sl → 4 + crcLen h + sl ≤ s.bufLen.toNat →
      step s = .next { s.begun rest with phase := .payload })

/-- The engine's own response to a reserved version in SIDE is to end the decode with INVALID_VERSION_FOR_SIDEINFO,
before any fetch (spec/42_synchronizer.md R119, spec/60_exceptions.md R140). It is stated of the engine's turn alone: a
step faults in such a state, which no run reaches (spec/60_exceptions.md R151; log entry 5). -/
def Obligations.ReservedVersionInSideEndsTheDecode : Prop :=
  ∀ (s : State) (h : Word), s.pending = false → s.phase = .side → s.HoldsHeader h → h.toNat / 2 ^ 19 % 4 = 1 →
    engineTurn s = .next { s with
      result := .invalidVersionForSideinfo, frameValid := false, phase := .idle, done := true }

/-- In PAYLOAD, more bytes than the size end the decode with FRAME_TOO_SHORT, fewer ask for a byte, and exactly the
size ends it with OK and FRAME_VALID; BUF_LEN, FBUF, SKIP, SKIP_SAT and SRC_ERR keep their values
(spec/42_synchronizer.md R120, R121). -/
def Obligations.PayloadEndsByItsLength : Prop :=
  ∀ (s : State) (rest : List Turn) (h : Word), s.R31 → s.sched = .engine :: rest → s.pending = false →
    s.phase = .payload → s.HoldsHeader h →
    (frameSize h < s.bufLen.toNat → step s = .next { s.begun rest with
      result := .frameTooShort, frameValid := false, phase := .idle, done := true }) ∧
    (s.bufLen.toNat < frameSize h → step s = .next { s.begun rest with pending := true }) ∧
    (s.bufLen.toNat = frameSize h → step s = .next { s.begun rest with
      result := .ok, frameValid := true, phase := .idle, done := true })

/-! ### Reset and the source's connection -/

/-- The reset values of R32 that the spec gives, and no byte of FBUF readable (spec/10_state.md R32). That FBUF holds
no value at all is the model's choice (log entry 4). -/
def Obligations.ResetLeavesTheSpecValues : Prop :=
  State.reset.phase = .idle ∧ State.reset.frameValid = false ∧ State.reset.result = .none ∧
  State.reset.srcErr = 0#8 ∧ State.reset.skip = 0#32 ∧ State.reset.skipSat = false ∧ State.reset.probe = 0#32 ∧
  State.reset.bufLen = 0#12 ∧ State.reset.pending = false ∧ State.reset.done = false ∧
  State.reset.status = 0#32 ∧ legal State.reset.probe = false ∧ ∀ k, State.reset.bufRead k = none

/-- The reset input puts the whole block in its reset state in any state, a decode or a held fetch included; DONE does
not fire; the host's further acts and the schedule stay and the source's answers are drawn afresh
(spec/70_reset_and_hazards.md R153, spec/93_implementation_defined.md U23; log entry 9). -/
def Obligations.ResetInputRestoresTheResetState : Prop :=
  ∀ (s : State) (answers : List SrcAnswer) (rest : List Turn), s.sched = .reset answers :: rest →
    step s = .next { State.reset with src := answers, host := s.host, sched := rest }

/-- Connecting a source while no decode runs replaces the source's answers and its position and nothing else; while one
runs the turn does nothing (spec/60_exceptions.md R152; the turn's form is log entry 9). -/
def Obligations.ConnectReplacesTheSourceWhenIdle : Prop :=
  ∀ (s : State) (answers : List SrcAnswer) (rest : List Turn), s.R31 → s.sched = .connect answers :: rest →
    (s.phase = .idle → step s = .next { s.begun rest with src := answers, srcTaken := 0 }) ∧
    (s.phase ≠ .idle → step s = .next (s.begun rest))

/-! ### Invariants and whole-machine rules -/

/-- The reset state meets the invariant. -/
def Obligations.ResetMeetsTheInvariant : Prop := State.reset.Inv

/-- Every step from a state of the invariant leads to a state of the invariant: R31 of spec/10_state.md, the frame
buffer filled exactly up to BUF_LEN, a fetch waiting only for a byte that is needed, each phase within its byte counts,
and what R136 of spec/60_exceptions.md records with each outcome. -/
def Obligations.StepKeepsTheInvariant : Prop :=
  ∀ s t : State, s.Inv → step s = .next t → t.Inv

/-- From every state of the invariant a step answers a next state: no engine step and no command of a reachable state
stops the machine, whatever the source answers (spec/60_exceptions.md R151, spec/42_synchronizer.md R123). -/
def Obligations.StepFromTheInvariantNeverStops : Prop :=
  ∀ s : State, s.Inv → ∃ t, step s = .next t

/-- From every state of the invariant, whatever the host, the source and the schedule hold, the machine runs any number
of steps without a fault or a refusal and stays in the invariant (spec/42_synchronizer.md R123). -/
def Obligations.RunsNeverStop : Prop :=
  ∀ (s : State) (k : Nat), s.Inv → ∃ t, runSteps k s = .next t ∧ t.Inv

/-- PHASE moves only forward: SYNC, then CRC when a CRC is present, then SIDE, then PAYLOAD, with IDLE reachable from
each and SYNC only from IDLE (spec/10_state.md R16). -/
def Obligations.PhaseMovesForward : Prop :=
  ∀ s t : State, step s = .next t →
    t.phase = s.phase ∨ t.phase = .idle ∨ (s.phase = .idle ∧ t.phase = .sync) ∨
    (s.phase = .sync ∧ t.phase = .crc ∧ s.HeaderSatisfies fun h => crcPresent h = true) ∨
    (s.phase = .sync ∧ t.phase = .side ∧ s.HeaderSatisfies fun h => crcPresent h = false) ∨
    (s.phase = .crc ∧ t.phase = .side) ∨ (s.phase = .side ∧ t.phase = .payload)

/-- DONE fires in a step exactly when that step ends a decode: PHASE goes back to IDLE, and not by reset
(spec/10_state.md R23, spec/42_synchronizer.md R124, spec/70_reset_and_hazards.md R153). -/
def Obligations.DoneFiresExactlyAtTheEndOfADecode : Prop :=
  ∀ s t : State, s.Inv → step s = .next t →
    (t.done = true ↔ s.phase ≠ .idle ∧ t.phase = .idle ∧ ∀ answers rest, s.sched ≠ .reset answers :: rest)

/-- While no decode runs, nothing but an accepted DECODE and reset changes the frame or the recorded outcome
(spec/20_memory.md R40, spec/60_exceptions.md R137). -/
def Obligations.IdleKeepsTheFrameAndTheOutcome : Prop :=
  ∀ s t : State, s.Inv → s.phase = .idle → step s = .next t → t.phase = .idle →
    (∀ answers rest, s.sched ≠ .reset answers :: rest) →
    t.fbuf = s.fbuf ∧ t.bufLen = s.bufLen ∧ t.frameValid = s.frameValid ∧ t.result = s.result ∧
    t.srcErr = s.srcErr ∧ t.skip = s.skip ∧ t.skipSat = s.skipSat

/-- Every byte an engine or source turn takes from the source is held or counted as skipped, and none is dropped
without being counted, as long as SKIP has not saturated (spec/42_synchronizer.md R123, spec/10_state.md R30). -/
def Obligations.TakenBytesAreHeldOrCounted : Prop :=
  ∀ s t : State, s.Inv → (∃ rest, s.sched = .engine :: rest ∨ s.sched = .source :: rest) → step s = .next t →
    t.skipSat = false →
    s.srcTaken + (t.skip.toNat + t.bufLen.toNat) = t.srcTaken + (s.skip.toNat + s.bufLen.toNat)

/-- The engine and the source never read or write PROBE: their steps are the same for every probe word
(spec/10_state.md R20, spec/42_synchronizer.md R127). -/
def Obligations.EngineIsIndependentOfProbe : Prop :=
  ∀ (s t : State) (w : Word), (∃ rest, s.sched = .engine :: rest ∨ s.sched = .source :: rest) → step s = .next t →
    t.probe = s.probe ∧ step { s with probe := w } = .next { t with probe := w }

/-! ### What a decode does with a stream -/

/-- A position whose byte is not 0xFF is never a legal start, so a two-byte discard passes over none
(spec/42_synchronizer.md R122 item 1). -/
def Obligations.SkippedPositionsAreNeverLegal : Prop :=
  ∀ b1 b2 b3 b4 : Byte, b1 ≠ 0xFF#8 → legal (headerWord b1 b2 b3 b4) = false

/-- If the source delivers a string whose first legal header stands at position `p`, phase SYNC ends at `p`: with `SKIP
= p`, exactly the four header bytes held, and the source `p + 4` bytes on (spec/42_synchronizer.md R122 item 2). -/
def Obligations.SearchEndsAtTheFirstLegalHeader : Prop :=
  ∀ (s : State) (bs : List Byte) (after : List SrcAnswer) (p : Nat) (h : Word),
    s.DecodeStarted → bs.length < 2 ^ 32 → firstLegal bs = some (p, h) →
    ∃ n t, runSteps (2 * n) (s.against (bs.map .byte ++ after) n) = .next t ∧
      t.phase = (if h.toNat / 2 ^ 16 % 2 = 0 then .crc else .side) ∧ t.skip.toNat = p ∧ t.skipSat = false ∧
      t.bufLen.toNat = 4 ∧ t.HoldsHeader h ∧ t.srcTaken = s.srcTaken + p + 4 ∧
      t.src = (bs.drop (p + 4)).map .byte ++ after

/-- If no legal header stands in the bytes delivered before Eof, the decode ends with NO_SYNC_FOUND, at most three
bytes are still held, and every other byte is counted as skipped (spec/42_synchronizer.md R122 item
3, with SKIP as log entry 13 reads it). -/
def Obligations.StreamWithoutHeaderEndsInNoSyncFound : Prop :=
  ∀ (s : State) (bs : List Byte) (after : List SrcAnswer),
    s.DecodeStarted → bs.length < 2 ^ 32 → firstLegal bs = none →
    ∃ t, runSteps (2 * (2 * bs.length + 5)) (s.against (bs.map .byte ++ .eof :: after) (2 * bs.length + 5)) = .next t ∧
      t.phase = .idle ∧ t.result = .noSyncFound ∧ t.frameValid = false ∧ t.bufLen.toNat ≤ 3 ∧
      t.skip.toNat + t.bufLen.toNat = bs.length ∧ t.srcTaken = s.srcTaken + bs.length ∧ t.src = after

/-- The whole decode, from the stream alone: against a source that delivers the bytes `bs` and then answers `last`, a
decode ends with the result, the number of bytes taken, the skipped count and, on OK, exactly the frame's bytes that
reading `bs` at its first legal header gives (spec/42_synchronizer.md R115 to R122, spec/20_memory.md R44,
spec/43_frame_access.md R133). -/
def Obligations.DecodeRefinesTheStreamReading : Prop :=
  ∀ (s : State) (bs : List Byte) (last : SrcAnswer),
    s.DecodeStarted → bs.length < 2 ^ 32 → (∀ b, last ≠ .byte b) →
    ∃ t, runSteps (2 * (2 * bs.length + 5)) (s.against (bs.map .byte ++ [last]) (2 * bs.length + 5)) = .next t ∧
      t.phase = .idle ∧ t.result = expectedResult bs last ∧ t.frameValid = (expectedResult bs last == .ok) ∧
      t.srcTaken = s.srcTaken + expectedTaken bs ∧
      (∀ e, last = .err e → t.result = .sourceError → t.srcErr = e) ∧
      ∀ p h, firstLegal bs = some (p, h) → t.skip.toNat = p ∧
        (t.result = .ok → t.bufLen.toNat = frameSize h ∧ ∀ k < frameSize h, t.bufRead k = bs[p + k]?)

/-- Every decode ends, from any point of it: against a source that answers every fetch, with bytes and at last with Eof
or an error, PHASE is IDLE after at most twice as many engine steps as bytes are still to come, and nine more
(spec/70_reset_and_hazards.md R155; the bound is the model's own, for a decode already under way). -/
def Obligations.EveryAnsweredDecodeEnds : Prop :=
  ∀ (s : State) (bs : List Byte) (last : SrcAnswer), s.Inv → (∀ b, last ≠ .byte b) →
    ∃ t, runSteps (2 * (2 * bs.length + 9)) (s.against (bs.map .byte ++ [last]) (2 * bs.length + 9)) = .next t ∧
      t.phase = .idle
end

