-- ==== Sys2Proof/Laws/Decode.lean ====
section
/-! SUPPORT. Concatenation as arithmetic, and the parts of a command word built from its parts (spec/30_encoding.md
R55). -/

namespace Sys2Proof

/-- `{x, y}` as a number (spec/00_scope.md R9). -/
theorem toNat_concat {n m : Nat} (x : BitVec n) (y : BitVec m) : (x ++ y).toNat = x.toNat * 2 ^ m + y.toNat := by
  rw [BitVec.toNat_append, ← Nat.shiftLeft_add_eq_or_of_lt y.isLt, Nat.shiftLeft_eq]

theorem cmdWord_toNat (op : Byte) (arg : Word) : (cmdWord op arg).toNat = op.toNat * 2 ^ 32 + arg.toNat := by
  rw [cmdWord, BitVec.toNat_cast, toNat_concat]

theorem cmdOp_toNat (w : CmdWord) : (cmdOp w).toNat = w.toNat / 2 ^ 32 := by
  rw [cmdOp, BitVec.extractLsb'_toNat, Nat.shiftRight_eq_div_pow]; omega

theorem cmdArg_toNat (w : CmdWord) : (cmdArg w).toNat = w.toNat % 2 ^ 32 := by
  rw [cmdArg, BitVec.extractLsb'_toNat, Nat.shiftRight_zero]

@[simp] theorem cmdOp_cmdWord (op : Byte) (arg : Word) : cmdOp (cmdWord op arg) = op := by
  apply BitVec.eq_of_toNat_eq; rw [cmdOp_toNat, cmdWord_toNat]; omega

@[simp] theorem cmdArg_cmdWord (op : Byte) (arg : Word) : cmdArg (cmdWord op arg) = arg := by
  apply BitVec.eq_of_toNat_eq; rw [cmdArg_toNat, cmdWord_toNat]; omega

@[simp] theorem cmdWord_parts (w : CmdWord) : cmdWord (cmdOp w) (cmdArg w) = w := by
  apply BitVec.eq_of_toNat_eq; rw [cmdWord_toNat, cmdOp_toNat, cmdArg_toNat]; omega

@[simp] theorem cmdOp_encode (i : Instr) : cmdOp (encode i) = i.opcode := cmdOp_cmdWord _ _
@[simp] theorem cmdArg_encode (i : Instr) : cmdArg (encode i) = i.argument := cmdArg_cmdWord _ _

theorem opClass_eq (op : Byte) : opClass op = op.toNat / 64 := by
  rw [opClass, BitVec.extractLsb'_toNat, Nat.shiftRight_eq_div_pow]; omega

theorem opFunction_eq (op : Byte) : opFunction op = op.toNat % 32 := by
  rw [opFunction, BitVec.extractLsb'_toNat, Nat.shiftRight_zero]

theorem opSource_eq (op : Byte) : opSource op = if op.toNat / 32 % 2 = 1 then .probe else .frame := by
  rw [opSource, BitVec.getLsbD, Nat.testBit_eq_decide_div_mod_eq]; simp

end Sys2Proof
end

