-- ==== Sys2Proof/Laws/State.lean ====
section
/-! SUPPORT. One lemma per field per update of State, so that no proof unfolds a record update. -/

namespace Sys2Proof.Machine

/-! ### `State.bufWrite` -/

@[simp] theorem State.bufWrite_phase (s : State) (i : BufAddr) (b : Byte) : (s.bufWrite i b).phase = s.phase := rfl
@[simp] theorem State.bufWrite_frameValid (s : State) (i : BufAddr) (b : Byte) : (s.bufWrite i b).frameValid = s.frameValid := rfl
@[simp] theorem State.bufWrite_result (s : State) (i : BufAddr) (b : Byte) : (s.bufWrite i b).result = s.result := rfl
@[simp] theorem State.bufWrite_srcErr (s : State) (i : BufAddr) (b : Byte) : (s.bufWrite i b).srcErr = s.srcErr := rfl
@[simp] theorem State.bufWrite_skip (s : State) (i : BufAddr) (b : Byte) : (s.bufWrite i b).skip = s.skip := rfl
@[simp] theorem State.bufWrite_skipSat (s : State) (i : BufAddr) (b : Byte) : (s.bufWrite i b).skipSat = s.skipSat := rfl
@[simp] theorem State.bufWrite_probe (s : State) (i : BufAddr) (b : Byte) : (s.bufWrite i b).probe = s.probe := rfl
@[simp] theorem State.bufWrite_bufLen (s : State) (i : BufAddr) (b : Byte) : (s.bufWrite i b).bufLen = s.bufLen := rfl
@[simp] theorem State.bufWrite_fbuf (s : State) (i : BufAddr) (b : Byte) : (s.bufWrite i b).fbuf = Memory.write s.fbuf i.toNat b := rfl
@[simp] theorem State.bufWrite_pending (s : State) (i : BufAddr) (b : Byte) : (s.bufWrite i b).pending = s.pending := rfl
@[simp] theorem State.bufWrite_rsp (s : State) (i : BufAddr) (b : Byte) : (s.bufWrite i b).rsp = s.rsp := rfl
@[simp] theorem State.bufWrite_done (s : State) (i : BufAddr) (b : Byte) : (s.bufWrite i b).done = s.done := rfl
@[simp] theorem State.bufWrite_src (s : State) (i : BufAddr) (b : Byte) : (s.bufWrite i b).src = s.src := rfl
@[simp] theorem State.bufWrite_srcTaken (s : State) (i : BufAddr) (b : Byte) : (s.bufWrite i b).srcTaken = s.srcTaken := rfl
@[simp] theorem State.bufWrite_host (s : State) (i : BufAddr) (b : Byte) : (s.bufWrite i b).host = s.host := rfl
@[simp] theorem State.bufWrite_sched (s : State) (i : BufAddr) (b : Byte) : (s.bufWrite i b).sched = s.sched := rfl

/-! ### `State.setBufLen` -/

@[simp] theorem State.setBufLen_phase (s : State) (n : BufAddr) : (s.setBufLen n).phase = s.phase := rfl
@[simp] theorem State.setBufLen_frameValid (s : State) (n : BufAddr) : (s.setBufLen n).frameValid = s.frameValid := rfl
@[simp] theorem State.setBufLen_result (s : State) (n : BufAddr) : (s.setBufLen n).result = s.result := rfl
@[simp] theorem State.setBufLen_srcErr (s : State) (n : BufAddr) : (s.setBufLen n).srcErr = s.srcErr := rfl
@[simp] theorem State.setBufLen_skip (s : State) (n : BufAddr) : (s.setBufLen n).skip = s.skip := rfl
@[simp] theorem State.setBufLen_skipSat (s : State) (n : BufAddr) : (s.setBufLen n).skipSat = s.skipSat := rfl
@[simp] theorem State.setBufLen_probe (s : State) (n : BufAddr) : (s.setBufLen n).probe = s.probe := rfl
@[simp] theorem State.setBufLen_bufLen (s : State) (n : BufAddr) : (s.setBufLen n).bufLen = n := rfl
@[simp] theorem State.setBufLen_fbuf (s : State) (n : BufAddr) : (s.setBufLen n).fbuf = Memory.forgetFrom s.fbuf n.toNat := rfl
@[simp] theorem State.setBufLen_pending (s : State) (n : BufAddr) : (s.setBufLen n).pending = s.pending := rfl
@[simp] theorem State.setBufLen_rsp (s : State) (n : BufAddr) : (s.setBufLen n).rsp = s.rsp := rfl
@[simp] theorem State.setBufLen_done (s : State) (n : BufAddr) : (s.setBufLen n).done = s.done := rfl
@[simp] theorem State.setBufLen_src (s : State) (n : BufAddr) : (s.setBufLen n).src = s.src := rfl
@[simp] theorem State.setBufLen_srcTaken (s : State) (n : BufAddr) : (s.setBufLen n).srcTaken = s.srcTaken := rfl
@[simp] theorem State.setBufLen_host (s : State) (n : BufAddr) : (s.setBufLen n).host = s.host := rfl
@[simp] theorem State.setBufLen_sched (s : State) (n : BufAddr) : (s.setBufLen n).sched = s.sched := rfl

/-! ### `State.respond` -/

@[simp] theorem State.respond_phase (s : State) (d : Word) : (s.respond d).phase = s.phase := rfl
@[simp] theorem State.respond_frameValid (s : State) (d : Word) : (s.respond d).frameValid = s.frameValid := rfl
@[simp] theorem State.respond_result (s : State) (d : Word) : (s.respond d).result = s.result := rfl
@[simp] theorem State.respond_srcErr (s : State) (d : Word) : (s.respond d).srcErr = s.srcErr := rfl
@[simp] theorem State.respond_skip (s : State) (d : Word) : (s.respond d).skip = s.skip := rfl
@[simp] theorem State.respond_skipSat (s : State) (d : Word) : (s.respond d).skipSat = s.skipSat := rfl
@[simp] theorem State.respond_probe (s : State) (d : Word) : (s.respond d).probe = s.probe := rfl
@[simp] theorem State.respond_bufLen (s : State) (d : Word) : (s.respond d).bufLen = s.bufLen := rfl
@[simp] theorem State.respond_fbuf (s : State) (d : Word) : (s.respond d).fbuf = s.fbuf := rfl
@[simp] theorem State.respond_pending (s : State) (d : Word) : (s.respond d).pending = s.pending := rfl
@[simp] theorem State.respond_rsp (s : State) (d : Word) : (s.respond d).rsp = some ⟨.ok, d⟩ := rfl
@[simp] theorem State.respond_done (s : State) (d : Word) : (s.respond d).done = s.done := rfl
@[simp] theorem State.respond_src (s : State) (d : Word) : (s.respond d).src = s.src := rfl
@[simp] theorem State.respond_srcTaken (s : State) (d : Word) : (s.respond d).srcTaken = s.srcTaken := rfl
@[simp] theorem State.respond_host (s : State) (d : Word) : (s.respond d).host = s.host := rfl
@[simp] theorem State.respond_sched (s : State) (d : Word) : (s.respond d).sched = s.sched := rfl

/-! ### `State.refuse` -/

@[simp] theorem State.refuse_phase (s : State) (c : RspCode) : (s.refuse c).phase = s.phase := rfl
@[simp] theorem State.refuse_frameValid (s : State) (c : RspCode) : (s.refuse c).frameValid = s.frameValid := rfl
@[simp] theorem State.refuse_result (s : State) (c : RspCode) : (s.refuse c).result = s.result := rfl
@[simp] theorem State.refuse_srcErr (s : State) (c : RspCode) : (s.refuse c).srcErr = s.srcErr := rfl
@[simp] theorem State.refuse_skip (s : State) (c : RspCode) : (s.refuse c).skip = s.skip := rfl
@[simp] theorem State.refuse_skipSat (s : State) (c : RspCode) : (s.refuse c).skipSat = s.skipSat := rfl
@[simp] theorem State.refuse_probe (s : State) (c : RspCode) : (s.refuse c).probe = s.probe := rfl
@[simp] theorem State.refuse_bufLen (s : State) (c : RspCode) : (s.refuse c).bufLen = s.bufLen := rfl
@[simp] theorem State.refuse_fbuf (s : State) (c : RspCode) : (s.refuse c).fbuf = s.fbuf := rfl
@[simp] theorem State.refuse_pending (s : State) (c : RspCode) : (s.refuse c).pending = s.pending := rfl
@[simp] theorem State.refuse_rsp (s : State) (c : RspCode) : (s.refuse c).rsp = some ⟨c, 0#32⟩ := rfl
@[simp] theorem State.refuse_done (s : State) (c : RspCode) : (s.refuse c).done = s.done := rfl
@[simp] theorem State.refuse_src (s : State) (c : RspCode) : (s.refuse c).src = s.src := rfl
@[simp] theorem State.refuse_srcTaken (s : State) (c : RspCode) : (s.refuse c).srcTaken = s.srcTaken := rfl
@[simp] theorem State.refuse_host (s : State) (c : RspCode) : (s.refuse c).host = s.host := rfl
@[simp] theorem State.refuse_sched (s : State) (c : RspCode) : (s.refuse c).sched = s.sched := rfl

/-! ### `State.clearOutputs` -/

@[simp] theorem State.clearOutputs_phase (s : State) : (s.clearOutputs).phase = s.phase := rfl
@[simp] theorem State.clearOutputs_frameValid (s : State) : (s.clearOutputs).frameValid = s.frameValid := rfl
@[simp] theorem State.clearOutputs_result (s : State) : (s.clearOutputs).result = s.result := rfl
@[simp] theorem State.clearOutputs_srcErr (s : State) : (s.clearOutputs).srcErr = s.srcErr := rfl
@[simp] theorem State.clearOutputs_skip (s : State) : (s.clearOutputs).skip = s.skip := rfl
@[simp] theorem State.clearOutputs_skipSat (s : State) : (s.clearOutputs).skipSat = s.skipSat := rfl
@[simp] theorem State.clearOutputs_probe (s : State) : (s.clearOutputs).probe = s.probe := rfl
@[simp] theorem State.clearOutputs_bufLen (s : State) : (s.clearOutputs).bufLen = s.bufLen := rfl
@[simp] theorem State.clearOutputs_fbuf (s : State) : (s.clearOutputs).fbuf = s.fbuf := rfl
@[simp] theorem State.clearOutputs_pending (s : State) : (s.clearOutputs).pending = s.pending := rfl
@[simp] theorem State.clearOutputs_rsp (s : State) : (s.clearOutputs).rsp = none := rfl
@[simp] theorem State.clearOutputs_done (s : State) : (s.clearOutputs).done = false := rfl
@[simp] theorem State.clearOutputs_src (s : State) : (s.clearOutputs).src = s.src := rfl
@[simp] theorem State.clearOutputs_srcTaken (s : State) : (s.clearOutputs).srcTaken = s.srcTaken := rfl
@[simp] theorem State.clearOutputs_host (s : State) : (s.clearOutputs).host = s.host := rfl
@[simp] theorem State.clearOutputs_sched (s : State) : (s.clearOutputs).sched = s.sched := rfl

/-! ### `State.finish` -/

@[simp] theorem State.finish_phase (s : State) (k : DecodeResult) : (s.finish k).phase = .idle := rfl
@[simp] theorem State.finish_frameValid (s : State) (k : DecodeResult) : (s.finish k).frameValid = (k == .ok) := rfl
@[simp] theorem State.finish_result (s : State) (k : DecodeResult) : (s.finish k).result = k := rfl
@[simp] theorem State.finish_srcErr (s : State) (k : DecodeResult) : (s.finish k).srcErr = s.srcErr := rfl
@[simp] theorem State.finish_skip (s : State) (k : DecodeResult) : (s.finish k).skip = s.skip := rfl
@[simp] theorem State.finish_skipSat (s : State) (k : DecodeResult) : (s.finish k).skipSat = s.skipSat := rfl
@[simp] theorem State.finish_probe (s : State) (k : DecodeResult) : (s.finish k).probe = s.probe := rfl
@[simp] theorem State.finish_bufLen (s : State) (k : DecodeResult) : (s.finish k).bufLen = s.bufLen := rfl
@[simp] theorem State.finish_fbuf (s : State) (k : DecodeResult) : (s.finish k).fbuf = s.fbuf := rfl
@[simp] theorem State.finish_pending (s : State) (k : DecodeResult) : (s.finish k).pending = s.pending := rfl
@[simp] theorem State.finish_rsp (s : State) (k : DecodeResult) : (s.finish k).rsp = s.rsp := rfl
@[simp] theorem State.finish_done (s : State) (k : DecodeResult) : (s.finish k).done = true := rfl
@[simp] theorem State.finish_src (s : State) (k : DecodeResult) : (s.finish k).src = s.src := rfl
@[simp] theorem State.finish_srcTaken (s : State) (k : DecodeResult) : (s.finish k).srcTaken = s.srcTaken := rfl
@[simp] theorem State.finish_host (s : State) (k : DecodeResult) : (s.finish k).host = s.host := rfl
@[simp] theorem State.finish_sched (s : State) (k : DecodeResult) : (s.finish k).sched = s.sched := rfl

/-! ### `State.startDecode` -/

@[simp] theorem State.startDecode_phase (s : State) : (s.startDecode).phase = .sync := rfl
@[simp] theorem State.startDecode_frameValid (s : State) : (s.startDecode).frameValid = false := rfl
@[simp] theorem State.startDecode_result (s : State) : (s.startDecode).result = .none := rfl
@[simp] theorem State.startDecode_srcErr (s : State) : (s.startDecode).srcErr = 0#8 := rfl
@[simp] theorem State.startDecode_skip (s : State) : (s.startDecode).skip = 0#32 := rfl
@[simp] theorem State.startDecode_skipSat (s : State) : (s.startDecode).skipSat = false := rfl
@[simp] theorem State.startDecode_probe (s : State) : (s.startDecode).probe = s.probe := rfl
@[simp] theorem State.startDecode_bufLen (s : State) : (s.startDecode).bufLen = 0#12 := rfl
@[simp] theorem State.startDecode_fbuf (s : State) : (s.startDecode).fbuf = Memory.forgetFrom s.fbuf 0 := rfl
@[simp] theorem State.startDecode_pending (s : State) : (s.startDecode).pending = s.pending := rfl
@[simp] theorem State.startDecode_rsp (s : State) : (s.startDecode).rsp = s.rsp := rfl
@[simp] theorem State.startDecode_done (s : State) : (s.startDecode).done = s.done := rfl
@[simp] theorem State.startDecode_src (s : State) : (s.startDecode).src = s.src := rfl
@[simp] theorem State.startDecode_srcTaken (s : State) : (s.startDecode).srcTaken = s.srcTaken := rfl
@[simp] theorem State.startDecode_host (s : State) : (s.startDecode).host = s.host := rfl
@[simp] theorem State.startDecode_sched (s : State) : (s.startDecode).sched = s.sched := rfl

/-! ### `State.append` -/

@[simp] theorem State.append_phase (s : State) (b : Byte) : (s.append b).phase = s.phase := rfl
@[simp] theorem State.append_frameValid (s : State) (b : Byte) : (s.append b).frameValid = s.frameValid := rfl
@[simp] theorem State.append_result (s : State) (b : Byte) : (s.append b).result = s.result := rfl
@[simp] theorem State.append_srcErr (s : State) (b : Byte) : (s.append b).srcErr = s.srcErr := rfl
@[simp] theorem State.append_skip (s : State) (b : Byte) : (s.append b).skip = s.skip := rfl
@[simp] theorem State.append_skipSat (s : State) (b : Byte) : (s.append b).skipSat = s.skipSat := rfl
@[simp] theorem State.append_probe (s : State) (b : Byte) : (s.append b).probe = s.probe := rfl
@[simp] theorem State.append_bufLen (s : State) (b : Byte) : (s.append b).bufLen = s.bufLen + 1#12 := rfl
@[simp] theorem State.append_fbuf (s : State) (b : Byte) : (s.append b).fbuf = Memory.forgetFrom (Memory.write s.fbuf s.bufLen.toNat b) (s.bufLen + 1#12).toNat := rfl
@[simp] theorem State.append_pending (s : State) (b : Byte) : (s.append b).pending = s.pending := rfl
@[simp] theorem State.append_rsp (s : State) (b : Byte) : (s.append b).rsp = s.rsp := rfl
@[simp] theorem State.append_done (s : State) (b : Byte) : (s.append b).done = s.done := rfl
@[simp] theorem State.append_src (s : State) (b : Byte) : (s.append b).src = s.src := rfl
@[simp] theorem State.append_srcTaken (s : State) (b : Byte) : (s.append b).srcTaken = s.srcTaken := rfl
@[simp] theorem State.append_host (s : State) (b : Byte) : (s.append b).host = s.host := rfl
@[simp] theorem State.append_sched (s : State) (b : Byte) : (s.append b).sched = s.sched := rfl

/-! ### `State.skipAdd` -/

@[simp] theorem State.skipAdd_phase (s : State) (n : Nat) : (s.skipAdd n).phase = s.phase := by unfold State.skipAdd; split <;> rfl
@[simp] theorem State.skipAdd_frameValid (s : State) (n : Nat) : (s.skipAdd n).frameValid = s.frameValid := by unfold State.skipAdd; split <;> rfl
@[simp] theorem State.skipAdd_result (s : State) (n : Nat) : (s.skipAdd n).result = s.result := by unfold State.skipAdd; split <;> rfl
@[simp] theorem State.skipAdd_srcErr (s : State) (n : Nat) : (s.skipAdd n).srcErr = s.srcErr := by unfold State.skipAdd; split <;> rfl
@[simp] theorem State.skipAdd_probe (s : State) (n : Nat) : (s.skipAdd n).probe = s.probe := by unfold State.skipAdd; split <;> rfl
@[simp] theorem State.skipAdd_bufLen (s : State) (n : Nat) : (s.skipAdd n).bufLen = s.bufLen := by unfold State.skipAdd; split <;> rfl
@[simp] theorem State.skipAdd_fbuf (s : State) (n : Nat) : (s.skipAdd n).fbuf = s.fbuf := by unfold State.skipAdd; split <;> rfl
@[simp] theorem State.skipAdd_pending (s : State) (n : Nat) : (s.skipAdd n).pending = s.pending := by unfold State.skipAdd; split <;> rfl
@[simp] theorem State.skipAdd_rsp (s : State) (n : Nat) : (s.skipAdd n).rsp = s.rsp := by unfold State.skipAdd; split <;> rfl
@[simp] theorem State.skipAdd_done (s : State) (n : Nat) : (s.skipAdd n).done = s.done := by unfold State.skipAdd; split <;> rfl
@[simp] theorem State.skipAdd_src (s : State) (n : Nat) : (s.skipAdd n).src = s.src := by unfold State.skipAdd; split <;> rfl
@[simp] theorem State.skipAdd_srcTaken (s : State) (n : Nat) : (s.skipAdd n).srcTaken = s.srcTaken := by unfold State.skipAdd; split <;> rfl
@[simp] theorem State.skipAdd_host (s : State) (n : Nat) : (s.skipAdd n).host = s.host := by unfold State.skipAdd; split <;> rfl
@[simp] theorem State.skipAdd_sched (s : State) (n : Nat) : (s.skipAdd n).sched = s.sched := by unfold State.skipAdd; split <;> rfl

/-- Below the limit `skip_add` is exact (spec/42_synchronizer.md R117). -/
theorem State.skipAdd_exact {s : State} {n : Nat} (h : s.skip.toNat + n ≤ Config.skipMax) :
    s.skipAdd n = { s with skip := BitVec.ofNat 32 (s.skip.toNat + n) } := by
  rw [State.skipAdd, if_neg (Nat.not_lt.mpr h)]

/-- Past the limit `skip_add` saturates and says so (spec/42_synchronizer.md R117). -/
theorem State.skipAdd_saturates {s : State} {n : Nat} (h : Config.skipMax < s.skip.toNat + n) :
    s.skipAdd n = { s with skip := BitVec.ofNat 32 Config.skipMax, skipSat := true } := by
  rw [State.skipAdd, if_pos h]

/-! ### The words of the claims -/

@[simp] theorem State.okWith_phase (s : State) (n : Nat) : (s.okWith n).phase = s.phase := rfl
@[simp] theorem State.okWith_frameValid (s : State) (n : Nat) : (s.okWith n).frameValid = s.frameValid := rfl
@[simp] theorem State.okWith_result (s : State) (n : Nat) : (s.okWith n).result = s.result := rfl
@[simp] theorem State.okWith_srcErr (s : State) (n : Nat) : (s.okWith n).srcErr = s.srcErr := rfl
@[simp] theorem State.okWith_skip (s : State) (n : Nat) : (s.okWith n).skip = s.skip := rfl
@[simp] theorem State.okWith_skipSat (s : State) (n : Nat) : (s.okWith n).skipSat = s.skipSat := rfl
@[simp] theorem State.okWith_probe (s : State) (n : Nat) : (s.okWith n).probe = s.probe := rfl
@[simp] theorem State.okWith_bufLen (s : State) (n : Nat) : (s.okWith n).bufLen = s.bufLen := rfl
@[simp] theorem State.okWith_fbuf (s : State) (n : Nat) : (s.okWith n).fbuf = s.fbuf := rfl
@[simp] theorem State.okWith_pending (s : State) (n : Nat) : (s.okWith n).pending = s.pending := rfl
@[simp] theorem State.okWith_rsp (s : State) (n : Nat) : (s.okWith n).rsp = some ⟨.ok, BitVec.ofNat 32 n⟩ := rfl
@[simp] theorem State.okWith_done (s : State) (n : Nat) : (s.okWith n).done = s.done := rfl
@[simp] theorem State.okWith_src (s : State) (n : Nat) : (s.okWith n).src = s.src := rfl
@[simp] theorem State.okWith_srcTaken (s : State) (n : Nat) : (s.okWith n).srcTaken = s.srcTaken := rfl
@[simp] theorem State.okWith_host (s : State) (n : Nat) : (s.okWith n).host = s.host := rfl
@[simp] theorem State.okWith_sched (s : State) (n : Nat) : (s.okWith n).sched = s.sched := rfl

@[simp] theorem State.refusedWith_phase (s : State) (c : RspCode) : (s.refusedWith c).phase = s.phase := rfl
@[simp] theorem State.refusedWith_frameValid (s : State) (c : RspCode) : (s.refusedWith c).frameValid = s.frameValid := rfl
@[simp] theorem State.refusedWith_result (s : State) (c : RspCode) : (s.refusedWith c).result = s.result := rfl
@[simp] theorem State.refusedWith_srcErr (s : State) (c : RspCode) : (s.refusedWith c).srcErr = s.srcErr := rfl
@[simp] theorem State.refusedWith_skip (s : State) (c : RspCode) : (s.refusedWith c).skip = s.skip := rfl
@[simp] theorem State.refusedWith_skipSat (s : State) (c : RspCode) : (s.refusedWith c).skipSat = s.skipSat := rfl
@[simp] theorem State.refusedWith_probe (s : State) (c : RspCode) : (s.refusedWith c).probe = s.probe := rfl
@[simp] theorem State.refusedWith_bufLen (s : State) (c : RspCode) : (s.refusedWith c).bufLen = s.bufLen := rfl
@[simp] theorem State.refusedWith_fbuf (s : State) (c : RspCode) : (s.refusedWith c).fbuf = s.fbuf := rfl
@[simp] theorem State.refusedWith_pending (s : State) (c : RspCode) : (s.refusedWith c).pending = s.pending := rfl
@[simp] theorem State.refusedWith_rsp (s : State) (c : RspCode) : (s.refusedWith c).rsp = some ⟨c, 0#32⟩ := rfl
@[simp] theorem State.refusedWith_done (s : State) (c : RspCode) : (s.refusedWith c).done = s.done := rfl
@[simp] theorem State.refusedWith_src (s : State) (c : RspCode) : (s.refusedWith c).src = s.src := rfl
@[simp] theorem State.refusedWith_srcTaken (s : State) (c : RspCode) : (s.refusedWith c).srcTaken = s.srcTaken := rfl
@[simp] theorem State.refusedWith_host (s : State) (c : RspCode) : (s.refusedWith c).host = s.host := rfl
@[simp] theorem State.refusedWith_sched (s : State) (c : RspCode) : (s.refusedWith c).sched = s.sched := rfl

@[simp] theorem State.begun_phase (s : State) (r : List Turn) : (s.begun r).phase = s.phase := rfl
@[simp] theorem State.begun_frameValid (s : State) (r : List Turn) : (s.begun r).frameValid = s.frameValid := rfl
@[simp] theorem State.begun_result (s : State) (r : List Turn) : (s.begun r).result = s.result := rfl
@[simp] theorem State.begun_srcErr (s : State) (r : List Turn) : (s.begun r).srcErr = s.srcErr := rfl
@[simp] theorem State.begun_skip (s : State) (r : List Turn) : (s.begun r).skip = s.skip := rfl
@[simp] theorem State.begun_skipSat (s : State) (r : List Turn) : (s.begun r).skipSat = s.skipSat := rfl
@[simp] theorem State.begun_probe (s : State) (r : List Turn) : (s.begun r).probe = s.probe := rfl
@[simp] theorem State.begun_bufLen (s : State) (r : List Turn) : (s.begun r).bufLen = s.bufLen := rfl
@[simp] theorem State.begun_fbuf (s : State) (r : List Turn) : (s.begun r).fbuf = s.fbuf := rfl
@[simp] theorem State.begun_pending (s : State) (r : List Turn) : (s.begun r).pending = s.pending := rfl
@[simp] theorem State.begun_rsp (s : State) (r : List Turn) : (s.begun r).rsp = none := rfl
@[simp] theorem State.begun_done (s : State) (r : List Turn) : (s.begun r).done = false := rfl
@[simp] theorem State.begun_src (s : State) (r : List Turn) : (s.begun r).src = s.src := rfl
@[simp] theorem State.begun_srcTaken (s : State) (r : List Turn) : (s.begun r).srcTaken = s.srcTaken := rfl
@[simp] theorem State.begun_host (s : State) (r : List Turn) : (s.begun r).host = s.host := rfl
@[simp] theorem State.begun_sched (s : State) (r : List Turn) : (s.begun r).sched = r := rfl

@[simp] theorem State.against_phase (s : State) (a : List SrcAnswer) (n : Nat) : (s.against a n).phase = s.phase := rfl
@[simp] theorem State.against_frameValid (s : State) (a : List SrcAnswer) (n : Nat) : (s.against a n).frameValid = s.frameValid := rfl
@[simp] theorem State.against_result (s : State) (a : List SrcAnswer) (n : Nat) : (s.against a n).result = s.result := rfl
@[simp] theorem State.against_srcErr (s : State) (a : List SrcAnswer) (n : Nat) : (s.against a n).srcErr = s.srcErr := rfl
@[simp] theorem State.against_skip (s : State) (a : List SrcAnswer) (n : Nat) : (s.against a n).skip = s.skip := rfl
@[simp] theorem State.against_skipSat (s : State) (a : List SrcAnswer) (n : Nat) : (s.against a n).skipSat = s.skipSat := rfl
@[simp] theorem State.against_probe (s : State) (a : List SrcAnswer) (n : Nat) : (s.against a n).probe = s.probe := rfl
@[simp] theorem State.against_bufLen (s : State) (a : List SrcAnswer) (n : Nat) : (s.against a n).bufLen = s.bufLen := rfl
@[simp] theorem State.against_fbuf (s : State) (a : List SrcAnswer) (n : Nat) : (s.against a n).fbuf = s.fbuf := rfl
@[simp] theorem State.against_pending (s : State) (a : List SrcAnswer) (n : Nat) : (s.against a n).pending = s.pending := rfl
@[simp] theorem State.against_rsp (s : State) (a : List SrcAnswer) (n : Nat) : (s.against a n).rsp = s.rsp := rfl
@[simp] theorem State.against_done (s : State) (a : List SrcAnswer) (n : Nat) : (s.against a n).done = s.done := rfl
@[simp] theorem State.against_src (s : State) (a : List SrcAnswer) (n : Nat) : (s.against a n).src = a := rfl
@[simp] theorem State.against_srcTaken (s : State) (a : List SrcAnswer) (n : Nat) : (s.against a n).srcTaken = s.srcTaken := rfl
@[simp] theorem State.against_host (s : State) (a : List SrcAnswer) (n : Nat) : (s.against a n).host = s.host := rfl
@[simp] theorem State.against_sched (s : State) (a : List SrcAnswer) (n : Nat) : (s.against a n).sched = engineRounds n := rfl

theorem runSteps_next {s t : State} (h : step s = .next t) (k : Nat) : runSteps (k + 1) s = runSteps k t := by
  rw [runSteps, h]

theorem runSteps_add (j k : Nat) (s : State) : runSteps (j + k) s =
    match runSteps j s with
    | .next t => runSteps k t
    | .fault f => .fault f
    | .refused r => .refused r := by
  induction j generalizing s with
  | zero => rw [Nat.zero_add]; rfl
  | succ j ih =>
    rw [Nat.succ_add, runSteps, runSteps]
    cases step s with
    | next t => exact ih t
    | fault f => rfl
    | refused r => rfl

theorem core_run_next {M : Host.Core} {s t : M.State} (h : M.step s = .next t) (k : Nat) :
    M.run (k + 1) s = M.run k t := by rw [Host.Core.run, h]

theorem core_run_fault {M : Host.Core} {s : M.State} {f : M.Fault} (h : M.step s = .fault f) (k : Nat) :
    M.run (k + 1) s = .fault f := by rw [Host.Core.run, h]

theorem core_run_refused {M : Host.Core} {s : M.State} {r : M.Refusal} (h : M.step s = .refused r) (k : Nat) :
    M.run (k + 1) s = .refused r := by rw [Host.Core.run, h]

/-- `runSteps` is the host's run of the core. -/
theorem core_run_eq (k : Nat) (s : State) : Host.Core.run Sys2Proof.core k s = runSteps k s := by
  induction k generalizing s with
  | zero => rfl
  | succ k ih =>
    rw [runSteps]
    cases h : step s with
    | next t => exact (core_run_next (M := Sys2Proof.core) h k).trans (ih t)
    | fault f => exact core_run_fault (M := Sys2Proof.core) h k
    | refused r => exact core_run_refused (M := Sys2Proof.core) h k

/-! ### The flags -/

@[simp] theorem State.busy_eq_true (s : State) : s.busy = true ↔ s.phase ≠ .idle := by simp [State.busy]
@[simp] theorem State.busy_eq_false (s : State) : s.busy = false ↔ s.phase = .idle := by simp [State.busy]

end Sys2Proof.Machine
end

