-- ==== Sys2Proof/Laws/Memory.lean ====
section
/-! SUPPORT. FBUF as memory: what a read gives after a write or after bytes are forgotten, and that every operation keeps
the canonical form. -/

namespace Sys2Proof.Machine

namespace Memory

/-- The listed indices. -/
abbrev keys (m : Memory) : List Nat := m.map Prod.fst

@[simp] theorem read_write_same (m : Memory) (a : Nat) (b : Byte) : (write m a b).read a = some b := by
  induction m with
  | nil => simp [write, read]
  | cons c m ih =>
    rw [write]
    split
    · simp [read]
    · split
      · simp [read]
      · rename_i h
        simp [read, Ne.symm h, ih]

theorem read_write_other {a a' : Nat} (h : a' ≠ a) (m : Memory) (b : Byte) : (write m a b).read a' = m.read a' := by
  induction m with
  | nil => simp [write, read, h.symm]
  | cons c m ih =>
    rw [write]
    split
    · simp [read, h.symm]
    · split
      · rename_i h2
        simp [read, ← h2, h.symm]
      · simp [read, ih]

theorem read_forgetFrom (m : Memory) (n a : Nat) : (forgetFrom m n).read a = if a < n then m.read a else none := by
  induction m with
  | nil => simp [forgetFrom, read]
  | cons c m ih =>
    simp only [forgetFrom, List.filter_cons] at ih ⊢
    by_cases hc : c.1 < n
    · simp only [hc, decide_true, if_true, read, ih]
      by_cases ha : c.1 = a
      · simp [← ha, hc]
      · simp [ha]
    · simp only [hc, decide_false, Bool.false_eq_true, if_false, read, ih]
      by_cases ha : c.1 = a
      · simp [← ha, hc]
      · simp [ha]

theorem mem_keys_write {m : Memory} {a k : Nat} {b : Byte} (h : k ∈ keys (write m a b)) : k = a ∨ k ∈ keys m := by
  induction m with
  | nil => simpa [write] using h
  | cons c m ih =>
    rw [write] at h
    split at h
    · simpa using h
    · split at h
      · rename_i h2
        simp only [keys, List.map_cons, List.mem_cons] at h ⊢
        tauto
      · simp only [keys, List.map_cons, List.mem_cons] at h ih ⊢
        rcases h with h | h
        · exact .inr (.inl h)
        · rcases ih h with h | h
          · exact .inl h
          · exact .inr (.inr h)

theorem rising_write {m : Memory} (h : (keys m).Pairwise (· < ·)) (a : Nat) (b : Byte) :
    (keys (write m a b)).Pairwise (· < ·) := by
  induction m with
  | nil => simp [write]
  | cons c m ih =>
    simp only [keys, List.map_cons, List.pairwise_cons] at h
    rw [write]
    split
    · rename_i h1
      simp only [keys, List.map_cons, List.pairwise_cons, List.mem_cons]
      refine ⟨?_, h⟩
      rintro k (rfl | hk)
      · exact h1
      · exact h1.trans (h.1 k hk)
    · split
      · rename_i h2
        simpa only [keys, List.map_cons, List.pairwise_cons, h2] using h
      · rename_i h1 h2
        simp only [keys, List.map_cons, List.pairwise_cons]
        refine ⟨fun k hk => ?_, ih h.2⟩
        rcases mem_keys_write hk with rfl | hk
        · omega
        · exact h.1 k hk

/-- The canonical form, in words. -/
theorem wf_iff (m : Memory) : wf m = true ↔ (keys m).Pairwise (· < ·) ∧ ∀ k ∈ keys m, k < Config.pBuf := by
  simp [wf, keys]

@[simp] theorem wf_nil : wf [] = true := by decide

/-- A write below `P_BUF` keeps the canonical form. -/
theorem wf_write {m : Memory} (h : wf m = true) {a : Nat} (ha : a < Config.pBuf) (b : Byte) :
    wf (write m a b) = true := by
  rw [wf_iff] at h ⊢
  refine ⟨rising_write h.1 a b, fun k hk => ?_⟩
  rcases mem_keys_write hk with rfl | hk
  · exact ha
  · exact h.2 k hk

/-- Forgetting keeps the canonical form. -/
theorem wf_forgetFrom {m : Memory} (h : wf m = true) (n : Nat) : wf (forgetFrom m n) = true := by
  rw [wf_iff] at h ⊢
  have hsub : (keys (forgetFrom m n)).Sublist (keys m) := List.Sublist.map _ List.filter_sublist
  exact ⟨h.1.sublist hsub, fun k hk => h.2 k (hsub.subset hk)⟩

@[simp] theorem forgetFrom_zero (m : Memory) : forgetFrom m 0 = [] := by simp [forgetFrom]

/-- A listed index reads as a value, and no other index does. -/
theorem read_isSome_iff (m : Memory) (a : Nat) : (m.read a).isSome = true ↔ a ∈ keys m := by
  induction m with
  | nil => simp [read]
  | cons c m ih =>
    by_cases h : c.1 = a
    · simp [read, h]
    · simp only [read, h, if_false, ih, keys, List.map_cons, List.mem_cons]
      exact ⟨.inr, fun hk => hk.resolve_left (fun e => h e.symm)⟩

theorem write_past {m : Memory} {a : Nat} (h : ∀ k ∈ keys m, k < a) (b : Byte) : write m a b = m ++ [(a, b)] := by
  induction m with
  | nil => rfl
  | cons c m ih =>
    have hc : c.1 < a := h _ (by simp [keys])
    rw [write, if_neg (by omega), if_neg (by omega), ih fun k hk => h k (by simp only [keys, List.map_cons]; exact List.mem_cons_of_mem _ hk)]
    rfl

theorem forgetFrom_all {m : Memory} {n : Nat} (h : ∀ k ∈ keys m, k < n) : forgetFrom m n = m := by
  rw [forgetFrom, List.filter_eq_self]
  intro c hc
  exact decide_eq_true (h _ (List.mem_map_of_mem hc))

/-- A byte appended to a filled buffer fills one index more. -/
theorem keys_append {m : Memory} {n : Nat} (h : keys m = List.range n) (b : Byte) :
    keys (forgetFrom (write m n b) (n + 1)) = List.range (n + 1) := by
  have hlt : ∀ k ∈ keys m, k < n := by simp [h]
  rw [write_past hlt, forgetFrom_all]
  · simp only [keys, List.map_append, List.map_cons, List.map_nil, List.range_succ]
    rw [← h]
  · intro k hk
    simp only [keys, List.map_append, List.map_cons, List.map_nil, List.mem_append, List.mem_singleton] at hk
    rcases hk with hk | hk
    · exact (hlt k hk).trans (Nat.lt_succ_self n)
    · omega

/-- A write to a listed index lists the same indices. -/
theorem keys_write_mem {m : Memory} {a : Nat} (hr : (keys m).Pairwise (· < ·)) (h : a ∈ keys m) (b : Byte) :
    keys (write m a b) = keys m := by
  induction m with
  | nil => simp at h
  | cons c m ih =>
    simp only [keys, List.map_cons, List.pairwise_cons, List.mem_cons] at hr h
    rw [write]
    rcases h with h | h
    · simp [h, keys]
    · have hlt := hr.1 a h
      rw [if_neg (by omega), if_neg (by omega)]
      simp only [keys, List.map_cons, List.cons.injEq, true_and]
      exact ih hr.2 h

/-- A shortened filled buffer is filled. -/
theorem keys_forgetFrom {m : Memory} {n k : Nat} (h : keys m = List.range n) (hk : k ≤ n) :
    keys (forgetFrom m k) = List.range k := by
  have : keys (forgetFrom m k) = (keys m).filter (· < k) := by
    simp [keys, forgetFrom, List.filter_map, Function.comp_def]
  rw [this, h]
  obtain ⟨d, rfl⟩ := Nat.exists_eq_add_of_le hk
  rw [List.range_add, List.filter_append, List.filter_eq_self.mpr (by simp), List.filter_eq_nil_iff.mpr (by simp)]
  simp

end Memory

end Sys2Proof.Machine
end

