-- ==== Sys2Proof/Laws/Ops.lean ====
section
/-! SUPPORT. What the shared operations over FBUF and the commands' common beginnings can do, said once each. -/

namespace Sys2Proof.Machine

/-! ### FBUF through `bufRead` -/

theorem State.bufRead_eq_none {s : State} {i : Nat} (h : s.bufLen.toNat ≤ i) : s.bufRead i = none := by
  rw [State.bufRead, if_neg (Nat.not_lt.mpr h)]

/-- `bufRead` depends on BUF_LEN and FBUF alone. -/
theorem State.bufRead_congr {s t : State} (hl : t.bufLen = s.bufLen) (hm : t.fbuf = s.fbuf) : t.bufRead = s.bufRead := by
  funext i; simp only [State.bufRead, hl, hm]

theorem State.frameHeader_congr {s t : State} (hl : t.bufLen = s.bufLen) (hm : t.fbuf = s.fbuf) :
    t.frameHeader = s.frameHeader := by
  simp only [State.frameHeader, State.bufRead_congr hl hm]

theorem State.bufRead_setBufLen (s : State) (n : BufAddr) (i : Nat) :
    (s.setBufLen n).bufRead i = if i < n.toNat then Memory.read s.fbuf i else none := by
  simp only [State.bufRead, State.setBufLen_bufLen, State.setBufLen_fbuf, Memory.read_forgetFrom]
  split <;> rfl

theorem State.append_bufLen_toNat {s : State} (h : s.bufLen.toNat < 4095) (b : Byte) :
    (s.append b).bufLen.toNat = s.bufLen.toNat + 1 := by
  simp only [State.append_bufLen]; bv_omega

/-- After a fetch of `b` the byte at the old BUF_LEN is `b` (spec/42_synchronizer.md R115). -/
theorem State.bufRead_append_last {s : State} (h : s.bufLen.toNat < 4095) (b : Byte) :
    (s.append b).bufRead s.bufLen.toNat = some b := by
  have hl : (s.bufLen + 1#12).toNat = s.bufLen.toNat + 1 := by bv_omega
  rw [State.append, State.bufRead_setBufLen, if_pos (by omega), State.bufWrite_fbuf, Memory.read_write_same]

/-- After a fetch every byte below the old BUF_LEN reads as before (spec/42_synchronizer.md R115). -/
theorem State.bufRead_append_below {s : State} (h : s.bufLen.toNat < 4095) (b : Byte) {i : Nat}
    (hi : i < s.bufLen.toNat) : (s.append b).bufRead i = s.bufRead i := by
  have hl : (s.bufLen + 1#12).toNat = s.bufLen.toNat + 1 := by bv_omega
  rw [State.append, State.bufRead_setBufLen, if_pos (by omega), State.bufWrite_fbuf,
    Memory.read_write_other (by omega), State.bufRead, if_pos hi]

/-- A filled buffer has a value at every index below BUF_LEN. -/
theorem State.bufRead_isSome {s : State} (hf : s.BufferFilled) {i : Nat} (hi : i < s.bufLen.toNat) :
    (s.bufRead i).isSome = true := by
  rw [State.bufRead, if_pos hi, Memory.read_isSome_iff, Memory.keys, hf]
  exact List.mem_range.mpr hi

theorem State.append_filled {s : State} (hf : s.BufferFilled) (h : s.bufLen.toNat < 4095) (b : Byte) :
    (s.append b).BufferFilled := by
  have hl : (s.bufLen + 1#12).toNat = s.bufLen.toNat + 1 := by bv_omega
  simp only [State.BufferFilled, State.append_fbuf, State.append_bufLen, hl]
  exact Memory.keys_append hf b

theorem State.setBufLen_filled {s : State} (hf : s.BufferFilled) {n : BufAddr} (h : n.toNat ≤ s.bufLen.toNat) :
    (s.setBufLen n).BufferFilled := Memory.keys_forgetFrom hf h

theorem State.bufWrite_filled {s : State} (hf : s.BufferFilled) {i : BufAddr} (h : i.toNat < s.bufLen.toNat)
    (b : Byte) : (s.bufWrite i b).BufferFilled := by
  have hk : i.toNat ∈ Memory.keys s.fbuf := by rw [Memory.keys, hf]; exact List.mem_range.mpr h
  have hr : (Memory.keys s.fbuf).Pairwise (· < ·) := by rw [Memory.keys, hf]; exact List.pairwise_lt_range
  simpa only [State.BufferFilled, State.bufWrite_fbuf, State.bufWrite_bufLen] using (Memory.keys_write_mem hr hk b).trans hf

/-- The canonical form of FBUF follows from its being filled up to BUF_LEN. -/
theorem State.filled_wf {s : State} (hf : s.BufferFilled) : Memory.wf s.fbuf = true := by
  rw [Memory.wf_iff, Memory.keys, hf]
  refine ⟨List.pairwise_lt_range, fun k hk => ?_⟩
  have := List.mem_range.mp hk
  have := s.bufLen.isLt
  simp only [Config.pBuf]; omega

theorem State.frameHeader_eq_some {s : State} {h : Word} : s.frameHeader = some h ↔
    ∃ b0 b1 b2 b3, s.bufRead 0 = some b0 ∧ s.bufRead 1 = some b1 ∧ s.bufRead 2 = some b2 ∧ s.bufRead 3 = some b3 ∧
      headerWord b0 b1 b2 b3 = h := by
  unfold State.frameHeader
  constructor
  · intro hh
    split at hh
    · rename_i b0 b1 b2 b3 h0 h1 h2 h3
      exact ⟨b0, b1, b2, b3, h0, h1, h2, h3, by simpa using hh⟩
    · simp at hh
  · rintro ⟨b0, b1, b2, b3, h0, h1, h2, h3, rfl⟩
    simp [h0, h1, h2, h3]

/-- A filled buffer of four bytes or more holds a header. -/
theorem State.frameHeader_isSome {s : State} (hf : s.BufferFilled) (h : 4 ≤ s.bufLen.toNat) :
    ∃ w, s.frameHeader = some w := by
  obtain ⟨b0, h0⟩ := Option.isSome_iff_exists.mp (s.bufRead_isSome hf (i := 0) (by omega))
  obtain ⟨b1, h1⟩ := Option.isSome_iff_exists.mp (s.bufRead_isSome hf (i := 1) (by omega))
  obtain ⟨b2, h2⟩ := Option.isSome_iff_exists.mp (s.bufRead_isSome hf (i := 2) (by omega))
  obtain ⟨b3, h3⟩ := Option.isSome_iff_exists.mp (s.bufRead_isSome hf (i := 3) (by omega))
  exact ⟨_, State.frameHeader_eq_some.mpr ⟨b0, b1, b2, b3, h0, h1, h2, h3, rfl⟩⟩

/-- A fetch past the header leaves the header as it is. -/
theorem State.frameHeader_append {s : State} (h4 : 4 ≤ s.bufLen.toNat) (h : s.bufLen.toNat < 4095) (b : Byte) :
    (s.append b).frameHeader = s.frameHeader := by
  simp only [State.frameHeader, State.bufRead_append_below h b (show 0 < s.bufLen.toNat by omega),
    State.bufRead_append_below h b (show 1 < s.bufLen.toNat by omega),
    State.bufRead_append_below h b (show 2 < s.bufLen.toNat by omega),
    State.bufRead_append_below h b (show 3 < s.bufLen.toNat by omega)]

/-! ### The commands' common beginnings -/

theorem whenFrameValid_next {s t : State} {k : Outcome} (h : whenFrameValid s k = .next t) :
    (s.frameValid = false ∧ t = s.refuse .noFrame) ∨ (s.frameValid = true ∧ k = .next t) := by
  unfold whenFrameValid at h
  split at h
  · exact .inr ⟨‹_›, h⟩
  · cases h; exact .inl ⟨Bool.eq_false_of_not_eq_true ‹_›, rfl⟩

theorem withFrameHeader_next {s t : State} {k : Word → Outcome} (h : withFrameHeader s k = .next t) :
    ∃ w, s.frameHeader = some w ∧ k w = .next t := by
  unfold withFrameHeader at h
  split at h
  · exact ⟨_, ‹_›, h⟩
  · cases h

theorem withHeader_next {src : HdrSrc} {s t : State} {k : Word → Outcome} (h : withHeader src s k = .next t) :
    (src = .frame ∧ s.frameValid = false ∧ t = s.refuse .noFrame) ∨
    (src = .frame ∧ s.frameValid = true ∧ ∃ w, s.frameHeader = some w ∧ k w = .next t) ∨
    (src = .probe ∧ k s.probe = .next t) := by
  cases src with
  | probe => exact .inr (.inr ⟨rfl, h⟩)
  | frame =>
    rcases whenFrameValid_next h with ⟨hv, ht⟩ | ⟨hv, h⟩
    · exact .inl ⟨rfl, hv, ht⟩
    · exact .inr (.inl ⟨rfl, hv, withFrameHeader_next h⟩)

theorem respondByte_next {s t : State} {i : Nat} (h : respondByte s i = .next t) :
    ∃ b, s.bufRead i = some b ∧ t = s.respond (b.setWidth 32) := by
  unfold respondByte at h
  split at h
  · cases h; exact ⟨_, ‹_›, rfl⟩
  · cases h

end Sys2Proof.Machine
end

