-- ==== Sys2Proof/Laws/Engine.lean ====
section
/-! SUPPORT. Everything a turn of the engine, of the source and of the schedule can do, said once each. -/

namespace Sys2Proof.Machine

/-- What a discard can do (spec/42_synchronizer.md R117). -/
theorem discard_next {s t : State} (h : discard s = .next t) :
    ∃ b1 b2 b3, s.bufRead 1 = some b1 ∧ s.bufRead 2 = some b2 ∧ s.bufRead 3 = some b3 ∧
      ((b1 = 0xFF#8 ∧
          t = ((((s.bufWrite 0#12 b1).bufWrite 1#12 b2).bufWrite 2#12 b3).setBufLen 3#12).skipAdd 1) ∨
       (b1 ≠ 0xFF#8 ∧ t = (((s.bufWrite 0#12 b2).bufWrite 1#12 b3).setBufLen 2#12).skipAdd 2)) := by
  unfold discard at h
  split at h
  · rename_i b1 b2 b3 h1 h2 h3
    refine ⟨b1, b2, b3, h1, h2, h3, ?_⟩
    split at h
    · cases h; exact .inl ⟨‹_›, rfl⟩
    · cases h; exact .inr ⟨‹_›, rfl⟩
  · cases h

/-- What the engine's turn can do (spec/42_synchronizer.md R113, R116, R118, R119, R120). -/
theorem engineTurn_next {s t : State} (h : engineTurn s = .next t) :
    ((s.pending = true ∨ s.phase = .idle) ∧ t = s) ∨
    (s.pending = false ∧
      ((s.phase = .sync ∧ s.bufLen.toNat < 4 ∧ t = { s with pending := true }) ∨
       (s.phase = .sync ∧ 4 ≤ s.bufLen.toNat ∧ ∃ w, s.frameHeader = some w ∧ legal w = true ∧
          t = { s with phase := if crcPresent w then .crc else .side }) ∨
       (s.phase = .sync ∧ 4 ≤ s.bufLen.toNat ∧ ∃ w, s.frameHeader = some w ∧ legal w = false ∧ discard s = .next t) ∨
       (s.phase = .crc ∧ s.bufLen.toNat < 6 ∧ t = { s with pending := true }) ∨
       (s.phase = .crc ∧ 6 ≤ s.bufLen.toNat ∧ t = { s with phase := .side }) ∨
       (s.phase = .side ∧ ∃ w, s.frameHeader = some w ∧ sideLen w = none ∧
          t = s.finish .invalidVersionForSideinfo) ∨
       (s.phase = .side ∧ ∃ w sl, s.frameHeader = some w ∧ sideLen w = some sl ∧
          s.bufLen.toNat < 4 + crcLen w + sl ∧ t = { s with pending := true }) ∨
       (s.phase = .side ∧ ∃ w sl, s.frameHeader = some w ∧ sideLen w = some sl ∧
          4 + crcLen w + sl ≤ s.bufLen.toNat ∧ t = { s with phase := .payload }) ∨
       (s.phase = .payload ∧ ∃ w, s.frameHeader = some w ∧ legal w = true ∧ frameSize w < s.bufLen.toNat ∧
          t = s.finish .frameTooShort) ∨
       (s.phase = .payload ∧ ∃ w, s.frameHeader = some w ∧ legal w = true ∧ s.bufLen.toNat < frameSize w ∧
          t = { s with pending := true }) ∨
       (s.phase = .payload ∧ ∃ w, s.frameHeader = some w ∧ legal w = true ∧ s.bufLen.toNat = frameSize w ∧
          t = s.finish .ok))) := by
  unfold engineTurn at h
  split at h
  · cases h; exact .inl ⟨.inl ‹_›, rfl⟩
  rename_i hp
  have hp : s.pending = false := by simpa using hp
  split at h
  · cases h; exact .inl ⟨.inr ‹_›, rfl⟩
  · rename_i hph
    refine .inr ⟨hp, ?_⟩
    unfold engineSync at h
    split at h
    · cases h; exact .inl ⟨hph, ‹_›, rfl⟩
    · obtain ⟨w, hw, h⟩ := withFrameHeader_next h
      split at h
      · cases h; exact .inr (.inl ⟨hph, by omega, w, hw, ‹_›, rfl⟩)
      · exact .inr (.inr (.inl ⟨hph, by omega, w, hw, Bool.eq_false_of_not_eq_true ‹_›, h⟩))
  · rename_i hph
    refine .inr ⟨hp, ?_⟩
    unfold engineCrc at h
    split at h
    · cases h; exact .inr (.inr (.inr (.inl ⟨hph, ‹_›, rfl⟩)))
    · cases h; exact .inr (.inr (.inr (.inr (.inl ⟨hph, by omega, rfl⟩))))
  · rename_i hph
    refine .inr ⟨hp, .inr (.inr (.inr (.inr (.inr ?_))))⟩
    obtain ⟨w, hw, h⟩ := withFrameHeader_next h
    split at h
    · cases h; exact .inl ⟨hph, w, hw, ‹_›, rfl⟩
    · split at h
      · cases h; exact .inr (.inl ⟨hph, w, _, hw, ‹_›, ‹_›, rfl⟩)
      · cases h; exact .inr (.inr (.inl ⟨hph, w, _, hw, ‹_›, by omega, rfl⟩))
  · rename_i hph
    refine .inr ⟨hp, .inr (.inr (.inr (.inr (.inr (.inr (.inr (.inr ?_)))))))⟩
    obtain ⟨w, hw, h⟩ := withFrameHeader_next h
    split at h
    · rename_i hl
      split at h
      · cases h; exact .inl ⟨hph, w, hw, hl, ‹_›, rfl⟩
      · split at h
        · cases h; exact .inr (.inl ⟨hph, w, hw, hl, ‹_›, rfl⟩)
        · cases h; exact .inr (.inr ⟨hph, w, hw, hl, by omega, rfl⟩)
    · cases h

/-- What the source's turn can do (spec/20_memory.md R43, spec/42_synchronizer.md R115). -/
theorem sourceTurn_next {s t : State} (h : sourceTurn s = .next t) :
    ((s.pending = false ∨ s.src = []) ∧ t = s) ∨
    (s.pending = true ∧ ∃ a rest, s.src = a :: rest ∧ t = answerFetch a { s with pending := false, src := rest }) := by
  unfold sourceTurn at h
  split at h
  · split at h
    · cases h; exact .inl ⟨.inr ‹_›, rfl⟩
    · cases h; exact .inr ⟨‹_›, _, _, ‹_›, rfl⟩
  · cases h; exact .inl ⟨.inl (Bool.eq_false_of_not_eq_true ‹_›), rfl⟩

theorem inReachable_next {s t : State} {k : Outcome} (h : inReachable s k = .next t) : s.R31 ∧ k = .next t := by
  unfold inReachable at h
  split at h
  · exact ⟨‹_›, h⟩
  · cases h

theorem inReachable_eq {s : State} (h : s.R31) (k : Outcome) : inReachable s k = k := if_pos h

/-- What a step can do, by the turn it takes (spec/00_scope.md R5). -/
theorem step_next {s t : State} (h : step s = .next t) :
    (s.sched = [] ∧ t = s.clearOutputs) ∨
    ∃ turn rest, s.sched = turn :: rest ∧
      ((turn = .host ∧ s.R31 ∧ hostTurn (s.begun rest) = .next t) ∨
       (turn = .engine ∧ s.R31 ∧ engineTurn (s.begun rest) = .next t) ∨
       (turn = .source ∧ s.R31 ∧ sourceTurn (s.begun rest) = .next t) ∨
       (∃ answers, turn = .connect answers ∧ s.R31 ∧ connectTurn answers (s.begun rest) = .next t) ∨
       (∃ answers, turn = .reset answers ∧ t = (s.begun rest).resetBlock answers)) := by
  unfold step nextTurn at h
  split at h
  · cases h; exact .inl ⟨‹_›, rfl⟩
  · rename_i turn rest hs
    refine .inr ⟨turn, rest, hs, ?_⟩
    cases turn with
    | host => obtain ⟨hr, h⟩ := inReachable_next h; exact .inl ⟨rfl, hr, h⟩
    | engine => obtain ⟨hr, h⟩ := inReachable_next h; exact .inr (.inl ⟨rfl, hr, h⟩)
    | source => obtain ⟨hr, h⟩ := inReachable_next h; exact .inr (.inr (.inl ⟨rfl, hr, h⟩))
    | connect answers =>
      obtain ⟨hr, h⟩ := inReachable_next h; exact .inr (.inr (.inr (.inl ⟨answers, rfl, hr, h⟩)))
    | reset answers => cases h; exact .inr (.inr (.inr (.inr ⟨answers, rfl, rfl⟩)))

/-- One pass of WAIT (spec/30_encoding.md R62). -/
theorem runWait_eq (after : List HostAct) (s : State) : runWait after s =
    .next (if s.status.getLsbD 0 = true then s.respond s.status else { s.respond s.status with host := after }) := rfl

/-- What the host's turn can do (spec/30_encoding.md R55, R61, R62). -/
theorem hostTurn_next {s t : State} (h : hostTurn s = .next t) :
    (s.host = [] ∧ t = s) ∨
    (∃ w rest i, s.host = .issue w :: rest ∧ decodeWord w = .ok i ∧ exec i { s with host := rest } = .next t) ∨
    (∃ w rest e, s.host = .issue w :: rest ∧ decodeWord w = .error e ∧
      t = ({ s with host := rest } : State).refuse .illegalOp) ∨
    (∃ rest, s.host = .wait :: rest ∧ t = s.respond s.status ∧ s.status.getLsbD 0 = true) ∨
    (∃ rest, s.host = .wait :: rest ∧ t = { s.respond s.status with host := rest } ∧ s.status.getLsbD 0 = false) := by
  unfold hostTurn at h
  split at h
  · cases h; exact .inl ⟨‹_›, rfl⟩
  · rename_i w rest hs
    unfold runCommand at h
    split at h
    · exact .inr (.inl ⟨w, rest, _, hs, ‹_›, h⟩)
    · cases h; exact .inr (.inr (.inl ⟨w, rest, _, hs, ‹_›, rfl⟩))
  · rename_i rest hs
    rw [runWait_eq] at h
    have h := Host.Outcome.next.inj h
    by_cases hb : s.status.getLsbD 0 = true
    · rw [if_pos hb] at h
      exact .inr (.inr (.inr (.inl ⟨rest, hs, h.symm, hb⟩)))
    · rw [if_neg hb] at h
      exact .inr (.inr (.inr (.inr ⟨rest, hs, h.symm, Bool.eq_false_of_not_eq_true hb⟩)))

end Sys2Proof.Machine
end

