-- ==== Sys2Proof/Laws/Header.lean ====
section
/-! SUPPORT. The header functions by the fields they depend on. -/

namespace Sys2Proof.Machine

/-- `legal(H)` in words (spec/40_header_fields.md R77). -/
theorem legal_iff (h : Word) : legal h = true ↔ syncOk h = true ∧ emphasis h ≠ reservedEmphasis ∧
    layer h ≠ reservedLayer ∧ version h ≠ reservedVersion ∧
    samplerateOf (version h) (srIndex h) ≠ Config.invalid ∧
    bitrateOf (version h) (layer h) (brIndex h) ≠ Config.invalid := by
  simp only [legal, samplerate, bitrate, Bool.and_eq_true, bne_iff_ne]
  tauto

/-- `size(H)` by the five fields it depends on (spec/41_frame_length.md R99). -/
def sizeOfFields (v l : BitVec 2) (i : BitVec 4) (s : BitVec 2) (p : Bool) : Nat :=
  (romSpf v l).toNat * (bitrateOf v l i).toNat / (8 * (samplerateOf v s).toNat) + if p then (romSlot l).toNat else 0

theorem frameSize_eq (h : Word) :
    frameSize h = sizeOfFields (version h) (layer h) (brIndex h) (srIndex h) (pad h) := rfl

/-- `side_len(H)` has a value for every version but the reserved one (spec/41_frame_length.md R94). -/
theorem sideLen_isSome {h : Word} (hv : version h ≠ reservedVersion) : ∃ n, sideLen h = some n := by
  unfold sideLen
  generalize version h = v at hv ⊢
  have : v = mpeg1 ∨ v = mpeg2 ∨ v = mpeg25 := by
    revert v; decide
  rcases this with rfl | rfl | rfl
  · exact ⟨_, if_pos rfl⟩
  · exact ⟨_, (if_neg (by decide)).trans (if_pos rfl)⟩
  · exact ⟨_, (if_neg (by decide)).trans ((if_neg (by decide)).trans (if_pos rfl))⟩

/-- The header word as a number (spec/20_memory.md R35). -/
theorem headerWord_toNat (b0 b1 b2 b3 : Byte) : (headerWord b0 b1 b2 b3).toNat =
    b0.toNat * 2 ^ 24 + b1.toNat * 2 ^ 16 + b2.toNat * 2 ^ 8 + b3.toNat := by
  simp only [headerWord, BitVec.toNat_cast, toNat_concat]; omega

/-- STATUS as a number (spec/10_state.md R22). -/
theorem State.status_toNat (s : State) : s.status.toNat = bit s.busy + 2 * bit s.frameValid + 4 * bit s.skipSat +
    16 * s.result.code.toNat + 2 ^ 8 * s.srcErr.toNat + 2 ^ 16 * s.phase.code.toNat := by
  have hb : ∀ b, (flagBit b).toNat = bit b := by decide
  simp only [State.status, BitVec.toNat_cast, toNat_concat, hb, BitVec.toNat_ofNat]; omega

/-- STATUS.BUSY is `rsp_data[0]` of RDSTAT (spec/10_state.md R22). -/
theorem State.status_busy (s : State) : s.status.getLsbD 0 = s.busy := by
  have h : s.status.toNat % 2 = bit s.busy := by
    rw [State.status_toNat]
    cases s.busy <;> simp only [bit_true, bit_false] <;> omega
  rw [BitVec.getLsbD, Nat.testBit_zero, h]
  cases s.busy <;> rfl

end Sys2Proof.Machine
end

