-- ==== Sys2Proof/Laws/PerInstr.lean ====
section
/-! SUPPORT. Per-instruction laws of the encoding (LAWS.json, family Opcode): beside the opcode byte of a command, every
argument word is read as a command of that same opcode byte (spec/30_encoding.md R59, R60). -/

namespace Sys2Proof.Laws.Opcode

/-- Every argument word beside the opcode byte of `i` is read as a command with that opcode byte. -/
def Statement (i : Instr) : Prop :=
  ∀ arg : Word, ∃ j, decodeWord (cmdWord i.opcode arg) = .ok j ∧ j.opcode = i.opcode

theorem nop : Statement .nop := fun arg => ⟨.nop, by rw [decodeWord, cmdOp_cmdWord]; rfl, rfl⟩
theorem decode : Statement .decode := fun arg => ⟨.decode, by rw [decodeWord, cmdOp_cmdWord]; rfl, rfl⟩
theorem ldprobe (w : Word) : Statement (.ldprobe w) :=
  fun arg => ⟨.ldprobe arg, by rw [show (Instr.ldprobe w).opcode = 2#8 from rfl, decodeWord, cmdOp_cmdWord, cmdArg_cmdWord]; rfl, rfl⟩
theorem rdstat : Statement .rdstat := fun arg => ⟨.rdstat, by rw [decodeWord, cmdOp_cmdWord]; rfl, rfl⟩
theorem rdskip : Statement .rdskip := fun arg => ⟨.rdskip, by rw [decodeWord, cmdOp_cmdWord]; rfl, rfl⟩
theorem hfRaw (src : HdrSrc) : Statement (.hfRaw src) :=
  fun arg => ⟨.hfRaw src, by rw [decodeWord, cmdOp_cmdWord]; cases src <;> rfl, rfl⟩
theorem hfVersion (src : HdrSrc) : Statement (.hfVersion src) :=
  fun arg => ⟨.hfVersion src, by rw [decodeWord, cmdOp_cmdWord]; cases src <;> rfl, rfl⟩
theorem hfLayer (src : HdrSrc) : Statement (.hfLayer src) :=
  fun arg => ⟨.hfLayer src, by rw [decodeWord, cmdOp_cmdWord]; cases src <;> rfl, rfl⟩
theorem hfProtection (src : HdrSrc) : Statement (.hfProtection src) :=
  fun arg => ⟨.hfProtection src, by rw [decodeWord, cmdOp_cmdWord]; cases src <;> rfl, rfl⟩
theorem hfBitrate (src : HdrSrc) : Statement (.hfBitrate src) :=
  fun arg => ⟨.hfBitrate src, by rw [decodeWord, cmdOp_cmdWord]; cases src <;> rfl, rfl⟩
theorem hfSamplerate (src : HdrSrc) : Statement (.hfSamplerate src) :=
  fun arg => ⟨.hfSamplerate src, by rw [decodeWord, cmdOp_cmdWord]; cases src <;> rfl, rfl⟩
theorem hfPad (src : HdrSrc) : Statement (.hfPad src) :=
  fun arg => ⟨.hfPad src, by rw [decodeWord, cmdOp_cmdWord]; cases src <;> rfl, rfl⟩
theorem hfPrivate (src : HdrSrc) : Statement (.hfPrivate src) :=
  fun arg => ⟨.hfPrivate src, by rw [decodeWord, cmdOp_cmdWord]; cases src <;> rfl, rfl⟩
theorem hfChmode (src : HdrSrc) : Statement (.hfChmode src) :=
  fun arg => ⟨.hfChmode src, by rw [decodeWord, cmdOp_cmdWord]; cases src <;> rfl, rfl⟩
theorem hfCopyright (src : HdrSrc) : Statement (.hfCopyright src) :=
  fun arg => ⟨.hfCopyright src, by rw [decodeWord, cmdOp_cmdWord]; cases src <;> rfl, rfl⟩
theorem hfOriginal (src : HdrSrc) : Statement (.hfOriginal src) :=
  fun arg => ⟨.hfOriginal src, by rw [decodeWord, cmdOp_cmdWord]; cases src <;> rfl, rfl⟩
theorem hfEmphasis (src : HdrSrc) : Statement (.hfEmphasis src) :=
  fun arg => ⟨.hfEmphasis src, by rw [decodeWord, cmdOp_cmdWord]; cases src <;> rfl, rfl⟩
theorem hfLegal (src : HdrSrc) : Statement (.hfLegal src) :=
  fun arg => ⟨.hfLegal src, by rw [decodeWord, cmdOp_cmdWord]; cases src <;> rfl, rfl⟩
theorem flSamples (src : HdrSrc) : Statement (.flSamples src) :=
  fun arg => ⟨.flSamples src, by rw [decodeWord, cmdOp_cmdWord]; cases src <;> rfl, rfl⟩
theorem flSize (src : HdrSrc) : Statement (.flSize src) :=
  fun arg => ⟨.flSize src, by rw [decodeWord, cmdOp_cmdWord]; cases src <;> rfl, rfl⟩
theorem flDuration (src : HdrSrc) : Statement (.flDuration src) :=
  fun arg => ⟨.flDuration src, by rw [decodeWord, cmdOp_cmdWord]; cases src <;> rfl, rfl⟩
theorem flSidelen (src : HdrSrc) : Statement (.flSidelen src) :=
  fun arg => ⟨.flSidelen src, by rw [decodeWord, cmdOp_cmdWord]; cases src <;> rfl, rfl⟩
theorem flCrclen (src : HdrSrc) : Statement (.flCrclen src) :=
  fun arg => ⟨.flCrclen src, by rw [decodeWord, cmdOp_cmdWord]; cases src <;> rfl, rfl⟩
theorem fdLen : Statement .fdLen := fun arg => ⟨.fdLen, by rw [decodeWord, cmdOp_cmdWord]; rfl, rfl⟩
theorem fdCrc : Statement .fdCrc := fun arg => ⟨.fdCrc, by rw [decodeWord, cmdOp_cmdWord]; rfl, rfl⟩
theorem fdByte (idx : Nat) : Statement (.fdByte idx) :=
  fun arg => ⟨.fdByte arg.toNat, by rw [show (Instr.fdByte idx).opcode = 194#8 from rfl, decodeWord, cmdOp_cmdWord, cmdArg_cmdWord]; rfl, rfl⟩
theorem fdSide (idx : Nat) : Statement (.fdSide idx) :=
  fun arg => ⟨.fdSide arg.toNat, by rw [show (Instr.fdSide idx).opcode = 195#8 from rfl, decodeWord, cmdOp_cmdWord, cmdArg_cmdWord]; rfl, rfl⟩

end Sys2Proof.Laws.Opcode
end

