-- ==== Sys2Proof/Tests/Slice0.lean ====
section
/-! SUPPORT. Own tests: decoding of written-out words, the WellFormed smoke, single commands and single steps with
expected values from spec/95_test_vectors.md or worked out by hand from the rules, and for every statement with
hypotheses a state that meets them. -/

namespace Sys2Proof.Tests

open Sys2Proof Sys2Proof.Machine

/-! ### States -/

/-- FBUF holding these bytes. -/
def filled (bs : List Byte) : Memory := (List.range bs.length).zip bs

/-- The reset state with these bytes in FBUF, in a phase. -/
def held (p : Phase) (bs : List Byte) : State :=
  { State.reset with phase := p, bufLen := BitVec.ofNat 12 bs.length, fbuf := filled bs }

/-- The reset state with a valid frame of these bytes. -/
def framed (bs : List Byte) : State := { held .idle bs with frameValid := true, result := .ok }

/-- The reset state with a probe word. -/
def probing (w : Word) : State := { State.reset with probe := w }

/-- `n` bytes of 0x55. -/
def filler (n : Nat) : List Byte := List.replicate n 0x55#8

/-- A 24-byte frame: MPEG2 Layer III, 8 kbit/s, 24000 Hz, Stereo, no CRC, side info 17 (spec/95_test_vectors.md 3.2). -/
def frameA : List Byte := [0xFF, 0xF3, 0x14, 0x00, 0xA4, 0xA5] ++ filler 17 ++ [0x5A]

/-- The same with a CRC, ABCD, and side info bytes 11 ... 99. -/
def frameB : List Byte := [0xFF, 0xF2, 0x14, 0x00, 0xAB, 0xCD, 0x11] ++ filler 15 ++ [0x99, 0x5A]

/-- A state about to take this turn. -/
def turned (t : Turn) (s : State) : State := { s with sched := [t] }

/-- A state about to issue this word. -/
def issuing (w : CmdWord) (s : State) : State := { s with host := [.issue w], sched := [.host] }

/-- A state whose fetch waits and whose source answers `a`. -/
def asked (a : SrcAnswer) (s : State) : State := { s with pending := true, src := [a], sched := [.source] }

/-- The response of a command. -/
def answer (i : Instr) (s : State) : Option Response :=
  match exec i s with
  | .next t => t.rsp
  | _ => none

/-- One field of the state after a step. -/
def after {α : Type} (f : State → α) (s : State) : Option α :=
  match step s with
  | .next t => some (f t)
  | _ => none

def okData (n : Nat) : Option Response := some ⟨.ok, BitVec.ofNat 32 n⟩
def refusal (c : RspCode) : Option Response := some ⟨c, 0#32⟩

/-! ### Well-formedness: an ill-formed term for each check -/

theorem test_wellFormed_refuses_wide_byte_index : (Instr.fdByte (2 ^ 32)).wellFormed = false := by decide
theorem test_wellFormed_refuses_wide_side_index : (Instr.fdSide (2 ^ 32)).wellFormed = false := by decide
theorem test_wellFormed_admits_largest_index : (Instr.fdByte (2 ^ 32 - 1)).wellFormed = true := by decide

/-! ### Decoding (spec/30_encoding.md R60; words of spec/95_test_vectors.md where it gives one) -/

theorem test_decode_control :
    decodeWord 0x00_FFFFFFFF#40 = .ok .nop ∧ decodeWord 0x01_00000000#40 = .ok .decode ∧
    decodeWord 0x02_12345678#40 = .ok (.ldprobe 0x12345678#32) ∧ decodeWord 0x03_00000000#40 = .ok .rdstat ∧
    decodeWord 0x04_00000000#40 = .ok .rdskip := by decide

theorem test_decode_header_frame :
    decodeWord 0x40_DEADBEEF#40 = .ok (.hfRaw .frame) ∧ decodeWord 0x41_00000000#40 = .ok (.hfVersion .frame) ∧
    decodeWord 0x42_00000000#40 = .ok (.hfLayer .frame) ∧ decodeWord 0x43_00000000#40 = .ok (.hfProtection .frame) ∧
    decodeWord 0x44_00000000#40 = .ok (.hfBitrate .frame) ∧ decodeWord 0x45_00000000#40 = .ok (.hfSamplerate .frame) ∧
    decodeWord 0x46_00000000#40 = .ok (.hfPad .frame) ∧ decodeWord 0x47_00000000#40 = .ok (.hfPrivate .frame) ∧
    decodeWord 0x48_00000000#40 = .ok (.hfChmode .frame) ∧ decodeWord 0x49_00000000#40 = .ok (.hfCopyright .frame) ∧
    decodeWord 0x4A_00000000#40 = .ok (.hfOriginal .frame) ∧ decodeWord 0x4B_00000000#40 = .ok (.hfEmphasis .frame) ∧
    decodeWord 0x4C_00000000#40 = .ok (.hfLegal .frame) := by decide

theorem test_decode_header_probe :
    decodeWord 0x60_00000000#40 = .ok (.hfRaw .probe) ∧ decodeWord 0x61_00000000#40 = .ok (.hfVersion .probe) ∧
    decodeWord 0x6B_00000000#40 = .ok (.hfEmphasis .probe) ∧ decodeWord 0x6C_00000000#40 = .ok (.hfLegal .probe) := by
  decide

theorem test_decode_length :
    decodeWord 0x80_00000000#40 = .ok (.flSamples .frame) ∧ decodeWord 0xA1_00000000#40 = .ok (.flSize .probe) ∧
    decodeWord 0x82_00000000#40 = .ok (.flDuration .frame) ∧ decodeWord 0xA3_00000000#40 = .ok (.flSidelen .probe) ∧
    decodeWord 0xA4_00000000#40 = .ok (.flCrclen .probe) := by decide

theorem test_decode_data :
    decodeWord 0xC0_00000000#40 = .ok .fdLen ∧ decodeWord 0xC1_00000000#40 = .ok .fdCrc ∧
    decodeWord 0xC2_00010000#40 = .ok (.fdByte 65536) ∧ decodeWord 0xC3_0000001F#40 = .ok (.fdSide 31) := by decide

/-- Every illegal byte of spec/95_test_vectors.md 3.5, each under the name of its bullet of R61. -/
theorem test_decode_illegal :
    decodeWord 0x05_00000000#40 = .error .controlFunction ∧ decodeWord 0x1F_00000000#40 = .error .controlFunction ∧
    decodeWord 0x20_00000000#40 = .error .controlWithSource ∧ decodeWord 0x21_00000000#40 = .error .controlWithSource ∧
    decodeWord 0x4D_00000000#40 = .error .headerFunction ∧ decodeWord 0x6D_00000000#40 = .error .headerFunction ∧
    decodeWord 0x85_00000000#40 = .error .lengthFunction ∧ decodeWord 0xBF_00000000#40 = .error .lengthFunction ∧
    decodeWord 0xC4_00000000#40 = .error .dataFunction ∧ decodeWord 0xE0_00000000#40 = .error .dataWithSource ∧
    decodeWord 0xFF_00000000#40 = .error .dataWithSource := by decide

theorem test_encode_words :
    encode (.ldprobe 0xFFFB9000#32) = 0x02_FFFB9000#40 ∧ encode (.hfLegal .probe) = 0x6C_00000000#40 ∧
    encode (.fdByte 417) = 0xC2_000001A1#40 := by decide

theorem test_table_word : decodeTableWord 8 0xC2 = some (.fdByte 0) ∧ decodeTableWord 40 0x1A1C2 = some (.fdByte 417) ∧
    decodeTableWord 8 0x05 = none := by decide

theorem test_placed_word_runs : after (·.rsp) (State.reset.withFetchWord 8 0x61) = some (okData 0) := by decide

theorem test_asm : (Instr.hfRaw .frame).asm = "HF.RAW f" ∧ (Instr.fdByte 417).asm = "FD.BYTE 417" := by decide

/-! ### Control commands (spec/95_test_vectors.md 3.3) -/

theorem test_nop : answer .nop (held .sync []) = okData 0 := by decide
theorem test_decode_status : after (·.status) (issuing 0x01_00000000#40 (framed frameA)) = some 0x00010001#32 := by decide
theorem test_decode_busy : answer .decode (held .payload frameA) = refusal .busy := by decide
theorem test_ldprobe : after (·.probe) (issuing 0x02_12345678#40 (held .payload frameA)) = some 0x12345678#32 := by decide
theorem test_rdstat_error : answer .rdstat { State.reset with result := .sourceError, srcErr := 0x2A#8 } = okData 0x2A40 := by
  decide
theorem test_rdstat_side : answer .rdstat (held .side []) = okData 0x00030001 := by decide
theorem test_rdskip : answer .rdskip { State.reset with skip := 0xFFFFFFFF#32 } = okData 0xFFFFFFFF := by decide

/-! ### Header field commands (spec/95_test_vectors.md 3.1 and the rules' examples) -/

theorem test_hfRaw : answer (.hfRaw .frame) (framed frameA) = okData 0xFFF31400 := by decide
theorem test_hfVersion : answer (.hfVersion .probe) (probing 0xFFEB9000#32) = okData 1 := by decide
theorem test_hfLayer : answer (.hfLayer .probe) (probing 0xFFFD9000#32) = okData 2 := by decide
theorem test_hfProtection : answer (.hfProtection .probe) (probing 0xFFFB9000#32) = okData 1 := by decide
theorem test_hfBitrate : answer (.hfBitrate .probe) (probing 0xFFFF9000#32) = okData 288000 := by decide
theorem test_hfBitrate_invalid : answer (.hfBitrate .probe) (probing 0xFFFB0000#32) = okData 0xFFFFFFFF := by decide
theorem test_hfSamplerate : answer (.hfSamplerate .probe) (probing 0xFFE39000#32) = okData 11025 := by decide
theorem test_hfSamplerate_reserved : answer (.hfSamplerate .probe) (probing 0xFFEB9000#32) = okData 0 := by decide
theorem test_hfPad : answer (.hfPad .probe) (probing 0xFFFB9200#32) = okData 1 := by decide
theorem test_hfPrivate : answer (.hfPrivate .probe) (probing 0xFFFB9100#32) = okData 1 := by decide
theorem test_hfChmode : answer (.hfChmode .probe) (probing 0xFFFB90C0#32) = okData 3 := by decide
theorem test_hfCopyright : answer (.hfCopyright .probe) (probing 0xFFFB9008#32) = okData 1 := by decide
theorem test_hfOriginal : answer (.hfOriginal .probe) (probing 0xFFFB9004#32) = okData 1 := by decide
theorem test_hfEmphasis : answer (.hfEmphasis .probe) (probing 0xFFFB9002#32) = okData 2 := by decide
theorem test_hfLegal : answer (.hfLegal .probe) (probing 0xFFFB9000#32) = okData 1 := by decide
theorem test_hfLegal_no_sync : answer (.hfLegal .probe) (probing 0xFFDB9000#32) = okData 0 := by decide

/-! ### Frame length commands (spec/95_test_vectors.md 3.2) -/

theorem test_flSamples : answer (.flSamples .probe) (probing 0xFFF58800#32) = okData 1152 := by decide
theorem test_flSize : answer (.flSize .probe) (probing 0xFFFFE200#32) = okData 491 := by decide
theorem test_flSize_not_legal : answer (.flSize .probe) (probing 0xFFFBF000#32) = refusal .notLegal := by decide
theorem test_flDuration : answer (.flDuration .probe) (probing 0xFFFB9000#32) = okData 26 := by decide
theorem test_flSidelen : answer (.flSidelen .probe) (probing 0xFFF286CC#32) = okData 9 := by decide
theorem test_flSidelen_reserved : answer (.flSidelen .probe) (probing 0xFFEB9000#32) = refusal .notLegal := by decide
theorem test_flCrclen : answer (.flCrclen .probe) (probing 0xFFFE1200#32) = okData 2 := by decide

/-! ### Frame data commands (spec/43_frame_access.md R131 to R134) -/

theorem test_fdLen : answer .fdLen (framed frameA) = okData 24 := by decide
theorem test_fdCrc : answer .fdCrc (framed frameB) = okData 0xABCD := by decide
theorem test_fdCrc_absent : answer .fdCrc (framed frameA) = okData 0 := by decide
theorem test_fdByte_last : answer (.fdByte 23) (framed frameA) = okData 0x5A := by decide
theorem test_fdByte_wide : answer (.fdByte 65536) (framed frameA) = refusal .range := by decide
theorem test_fdSide_after_crc : answer (.fdSide 0) (framed frameB) = okData 0x11 := by decide
theorem test_fdSide_range : answer (.fdSide 17) (framed frameB) = refusal .range := by decide

/-- NO_FRAME comes before RANGE (spec/60_exceptions.md R139). -/
theorem test_no_frame_first : answer (.fdByte 5000) State.reset = refusal .noFrame := by decide

/-! ### Engine steps (spec/95_test_vectors.md 3.3) -/

theorem test_window_legal : after (·.phase) (turned .engine (held .sync [0xFF, 0xFB, 0x90, 0x00])) = some .side := by decide
theorem test_window_legal_crc : after (·.phase) (turned .engine (held .sync [0xFF, 0xFA, 0x90, 0x00])) = some .crc := by
  decide
theorem test_discard_two : after (fun t => (t.fbuf, t.bufLen, t.skip))
    (turned .engine (held .sync [0x12, 0x34, 0x56, 0xFF])) = some (filled [0x56, 0xFF], 2#12, 2#32) := by decide
theorem test_discard_one : after (fun t => (t.fbuf, t.bufLen, t.skip))
    (turned .engine (held .sync [0xFF, 0xFF, 0xFF, 0xFF])) = some (filled [0xFF, 0xFF, 0xFF], 3#12, 1#32) := by decide
theorem test_skip_saturates : after (fun t => (t.skip, t.skipSat))
    (turned .engine { held .sync [0, 0, 0, 0] with skip := 0xFFFFFFFE#32 }) = some (0xFFFFFFFF#32, true) := by decide
theorem test_skip_reaches_limit : after (fun t => (t.skip, t.skipSat))
    (turned .engine { held .sync [0, 0xFF, 0, 0] with skip := 0xFFFFFFFE#32 }) = some (0xFFFFFFFF#32, false) := by decide
theorem test_fetch_asks : after (·.pending) (turned .engine (held .sync [1, 2, 3])) = some true := by decide
theorem test_fetch_byte : after (fun t => (t.fbuf, t.pending)) (asked (.byte 0x00#8) (held .sync [1, 2, 3]))
    = some (filled [1, 2, 3, 0], false) := by decide
theorem test_eof_in_sync : after (fun t => (t.status, t.done)) (asked .eof (held .sync [1, 2, 3]))
    = some (0x00000020#32, true) := by decide
theorem test_eof_in_crc : after (·.status) (asked .eof (held .crc [0xFF, 0xFA, 0x90, 0x00, 0x01])) = some 0x00000030#32 := by
  decide
theorem test_source_error : after (·.status) (asked (.err 0x2A#8) (held .sync [1, 2])) = some 0x00002A40#32 := by decide
theorem test_crc_advance : after (·.phase) (turned .engine (held .crc [0xFF, 0xFA, 0x90, 0x00, 1, 2])) = some .side := by
  decide
theorem test_side_advance : after (·.phase) (turned .engine (held .side ([0xFF, 0xFB, 0x90, 0x00] ++ filler 32)))
    = some .payload := by decide
theorem test_side_needs_one_more : after (·.pending) (turned .engine (held .side ([0xFF, 0xFB, 0x90, 0x00] ++ filler 31)))
    = some true := by decide
theorem test_payload_short : after (·.status) (turned .engine (held .payload ([0xFF, 0xFF, 0x14, 0x00] ++ filler 32)))
    = some 0x00000070#32 := by decide
theorem test_payload_ok : after (·.status) (turned .engine (held .payload frameA)) = some 0x00000012#32 := by decide
theorem test_reset_withdraws_fetch : after (fun t => (t.pending, t.phase, t.done, t.bufLen))
    { asked .eof (held .sync [1, 2, 3]) with sched := [.reset []] } = some (false, .idle, false, 0#12) := by decide
theorem test_wait_stays : after (·.host) { held .sync [] with host := [.wait], sched := [.host] } = some [.wait] := by decide
theorem test_wait_ends : after (·.host) { State.reset with host := [.wait], sched := [.host] } = some [] := by decide
theorem test_unreachable_state_faults :
    step (turned .engine { State.reset with frameValid := true }) = .fault .unreachableState := by rfl

/-! ### Witnesses: a state that meets the hypotheses of each statement -/

theorem witness_DecodeOfEncodeIsTheCommand : (Instr.fdSide (2 ^ 32 - 1)).wellFormed = true := by decide
theorem witness_EncodeOfDecodeIsTheWord :
    decodeWord 0xC2_FFFFFFFF#40 = .ok (.fdByte 0xFFFFFFFF) ∧ cmdOp 0xC2_FFFFFFFF#40 = 0xC2#8 ∧
    decodeWord 0x02_FFFFFFFF#40 = .ok (.ldprobe 0xFFFFFFFF#32) ∧ cmdOp 0x02_FFFFFFFF#40 = 0x02#8 ∧
    decodeWord 0xC3_FFFFFFFF#40 = .ok (.fdSide 0xFFFFFFFF) ∧ cmdOp 0xC3_FFFFFFFF#40 = 0xC3#8 := by decide
theorem witness_UnassignedOpcodesAnswerIllegalOp :
    let s := issuing 0x05_00000000#40 State.reset
    s.R31 ∧ s.sched = .host :: [] ∧ s.host = .issue 0x05_00000000#40 :: [] ∧
    UnassignedOpcode (cmdOp 0x05_00000000#40) := by decide
theorem witness_ArgumentWordIsWholeOrIgnored : (0x40#8 ≠ 0x02#8 ∧ 0x40#8 ≠ 0xC2#8 ∧ 0x40#8 ≠ 0xC3#8) := by decide
theorem witness_StepRunsTheIssuedCommand :
    let s := issuing 0x03_00000000#40 (framed frameA)
    s.R31 ∧ s.sched = .host :: [] ∧ s.host = .issue 0x03_00000000#40 :: [] ∧
    decodeWord 0x03_00000000#40 = .ok .rdstat := by decide
theorem witness_WaitPollsStatusUntilIdle :
    let s := { held .sync [] with host := [.wait], sched := [.host] }
    s.R31 ∧ s.sched = .host :: [] ∧ s.host = .wait :: [] := by decide
theorem witness_DecodeStartsOrAnswersBusy : State.reset.phase = .idle ∧ (held .sync []).phase ≠ .idle := by decide

/-- A frame whose bytes are those of a header word holds it. -/
theorem holds_frameA : (framed frameA).HoldsHeader 0xFFF31400#32 :=
  ⟨0xFF#8, 0xF3#8, 0x14#8, 0x00#8, by decide, by decide, by decide, by decide, by decide⟩
theorem holds_frameB : (framed frameB).HoldsHeader 0xFFF21400#32 :=
  ⟨0xFF#8, 0xF2#8, 0x14#8, 0x00#8, by decide, by decide, by decide, by decide, by decide⟩
theorem inv_frameA : (framed frameA).Inv := by decide
theorem inv_frameB : (framed frameB).Inv := by decide

/-- For the HF and FL statements: a header selected from a frame, and from PROBE one that is not legal. -/
theorem witness_HeaderSelected : HeaderSelected .frame (framed frameA) 0xFFF31400#32 ∧ legal 0xFFF31400#32 = true ∧
    HeaderSelected .probe (probing 0xFFFBF000#32) 0xFFFBF000#32 ∧ legal 0xFFFBF000#32 = false :=
  ⟨⟨by decide, holds_frameA⟩, by decide, rfl, by decide⟩
theorem witness_FrameCommandsWithoutFrameAnswerNoFrame : State.reset.frameValid = false := by decide
theorem witness_BitrateCommandAnswersTheRate : bitrate 0xFFF31400#32 ≠ 0xFFFFFFFF#32 := by decide
theorem witness_SamplerateCommandAnswersTheRate :
    (0xFFEB9800#32).toNat / 2 ^ 19 % 4 = 1 ∧ (0xFFEB9800#32).toNat / 2 ^ 10 % 4 ≠ 3 := by decide
theorem witness_LegalHeaders : legal 0xFFFB9000#32 = true ∧ legal 0xFFFF1400#32 = true := by decide
theorem witness_LegalCommand_otherBits :
    0xFFFB9000#32 ≠ 0xFFFA93FC#32 ∧ 0xFFFB9000#32 &&& 0xFFFEFC03#32 = 0xFFFA93FC#32 &&& 0xFFFEFC03#32 := by decide
theorem witness_FrameHeadersAreLegal : (framed frameA).Inv ∧ (framed frameA).frameValid = true := ⟨inv_frameA, by decide⟩
theorem witness_RdskipAnswersSkip : let s := { State.reset with skip := 0xFFFFFFFF#32, skipSat := true }
    s.Inv ∧ s.skipSat = true := by decide
theorem witness_FrameSizesRunFrom24To2881 :
    let h := 0xFFF31400#32
    let g := 0xFFE5EA00#32
    (legal h = true ∧ version h = 2#2 ∧ layer h = 1#2 ∧ bitrate h = 8000#32 ∧ samplerate h = 24000#32 ∧ pad h = false) ∧
    (legal g = true ∧ version g = 0#2 ∧ layer g = 2#2 ∧ bitrate g = 160000#32 ∧ samplerate g = 8000#32 ∧ pad g = true) := by
  decide
theorem witness_FdLenAnswersTheBufferLength :
    (framed frameA).Inv ∧ (framed frameA).frameValid = true ∧ State.reset.frameValid = false :=
  ⟨inv_frameA, by decide, by decide⟩
theorem witness_FdCrc_absent : (framed frameA).HoldsHeader 0xFFF31400#32 ∧ (framed frameA).frameValid = true ∧
    (0xFFF31400#32).toNat / 2 ^ 16 % 2 = 1 := ⟨holds_frameA, by decide, by decide⟩
theorem witness_FdCrc_present : (framed frameB).HoldsHeader 0xFFF21400#32 ∧ (framed frameB).frameValid = true ∧
    (0xFFF21400#32).toNat / 2 ^ 16 % 2 = 0 ∧ (framed frameB).bufRead 4 = some 0xAB#8 ∧
    (framed frameB).bufRead 5 = some 0xCD#8 ∧ (framed frameB).Inv :=
  ⟨holds_frameB, by decide, by decide, by decide, by decide, inv_frameB⟩
theorem witness_FdCrc_no_frame : (held .idle frameA).frameValid = false := by decide
/-- The last byte, the first index out of range, and the largest one. -/
theorem witness_FdByte : (framed frameA).frameValid = true ∧ (23 < (framed frameA).bufLen.toNat) ∧
    (framed frameA).bufRead 23 = some 0x5A#8 ∧ (framed frameA).bufLen.toNat ≤ 24 ∧
    (framed frameA).bufLen.toNat ≤ 0xFFFFFFFF := by decide
/-- The last side-info byte and the first index out of range. -/
theorem witness_FdSide : (framed frameB).HoldsHeader 0xFFF21400#32 ∧ sideLen 0xFFF21400#32 = some 17 ∧ 16 < 17 ∧
    (framed frameB).bufRead (4 + crcLen 0xFFF21400#32 + 16) = some 0x99#8 ∧ 17 ≤ 17 :=
  ⟨holds_frameB, by decide, by decide, by decide, by decide⟩
theorem witness_EveryCommandGetsAResponse : (held .sync [0xFF, 0xFF, 0xFF]).Inv := by decide
theorem witness_RefusedCommandsChangeNothing :
    exec (.fdByte 24) (framed frameA) = .next ((framed frameA).refusedWith .range) := by rfl
theorem witness_ReadCommandsChangeOnlyTheResponse : Instr.fdLen ≠ .decode ∧ (∀ w, Instr.fdLen ≠ .ldprobe w) ∧
    exec .fdLen (framed frameA) = .next ((framed frameA).okWith 24) :=
  ⟨by decide, (fun _ h => nomatch h), rfl⟩
theorem witness_EngineIsHeldWhenIdleOrWaiting :
    (turned .engine State.reset).R31 ∧ (turned .engine State.reset).phase = .idle ∧
    ({ held .sync [] with pending := true, sched := [.engine] } : State).R31 := by decide
/-- Both sides of each phase's byte count. -/
theorem witness_EngineAsksExactlyForMissingBytes :
    (held .sync [1, 2, 3]).wantsByte = true ∧ (held .sync [1, 2, 3, 4]).wantsByte = false ∧
    (held .crc [0xFF, 0xFA, 0x90, 0x00, 1]).wantsByte = true ∧
    (held .crc [0xFF, 0xFA, 0x90, 0x00, 1, 2]).wantsByte = false ∧
    (held .side ([0xFF, 0xFB, 0x90, 0x00] ++ filler 31)).wantsByte = true ∧
    (held .side ([0xFF, 0xFB, 0x90, 0x00] ++ filler 32)).wantsByte = false ∧
    (held .payload (frameA.take 23)).wantsByte = true ∧ (held .payload frameA).wantsByte = false := by decide
theorem witness_EngineAsks_step : ∃ t, step (turned .engine (held .sync [1, 2, 3])) = .next t := ⟨_, rfl⟩
theorem witness_SourceAnswer_sync : let s := asked .eof (held .sync [])
    s.R31 ∧ s.sched = .source :: [] ∧ s.pending = true ∧ s.src = .eof :: [] := by decide
theorem witness_SourceAnswer_payload : let s := asked (.byte 0x5A#8) (held .payload (frameA.take 23))
    s.R31 ∧ s.sched = .source :: [] ∧ s.pending = true ∧ s.src = .byte 0x5A#8 :: [] := by decide
theorem witness_SourceAnswer_err : let s := asked (.err 0#8) (held .sync [1, 2])
    s.R31 ∧ s.sched = .source :: [] ∧ s.pending = true ∧ s.src = .err 0#8 :: [] := by decide
theorem witness_LegalWindowEndsTheSearch : let s := turned .engine (held .sync [0xFF, 0xFA, 0x90, 0x00])
    s.R31 ∧ s.sched = .engine :: [] ∧ s.pending = false ∧ s.phase = .sync ∧ s.HoldsHeader 0xFFFA9000#32 ∧
    legal 0xFFFA9000#32 = true :=
  ⟨by decide, by decide, by decide, by decide,
    ⟨0xFF#8, 0xFA#8, 0x90#8, 0x00#8, by decide, by decide, by decide, by decide, by decide⟩, by decide⟩
/-- A discard of one byte and of two, each at the limit of SKIP. -/
theorem witness_IllegalWindowDropsOneOrTwoBytes :
    let s := turned .engine { held .sync [0, 0xFF, 0, 0] with skip := 0xFFFFFFFF#32 }
    let u := turned .engine { held .sync [0, 0, 0, 0] with skip := 0xFFFFFFFD#32 }
    s.R31 ∧ s.pending = false ∧ s.phase = .sync ∧ s.bufRead 1 = some 0xFF#8 ∧ s.bufRead 3 = some 0#8 ∧
    legal (headerWord 0 0xFF 0 0) = false ∧ u.R31 ∧ u.bufRead 1 = some 0#8 ∧ legal (headerWord 0 0 0 0) = false := by
  decide
theorem witness_FilledPhasesMoveOn_crc : let s := turned .engine (held .crc [0xFF, 0xFA, 0x90, 0x00, 1, 2])
    s.R31 ∧ s.sched = .engine :: [] ∧ s.pending = false ∧ s.phase = .crc ∧ 6 ≤ s.bufLen.toNat := by decide
theorem witness_FilledPhasesMoveOn_side : let s := turned .engine (held .side ([0xFF, 0xFB, 0x90, 0x00] ++ filler 32))
    s.R31 ∧ s.phase = .side ∧ s.HoldsHeader 0xFFFB9000#32 ∧ sideLen 0xFFFB9000#32 = some 32 ∧
    4 + crcLen 0xFFFB9000#32 + 32 ≤ s.bufLen.toNat :=
  ⟨by decide, by decide, ⟨0xFF#8, 0xFB#8, 0x90#8, 0x00#8, by decide, by decide, by decide, by decide, by decide⟩,
    by decide, by decide⟩
theorem witness_ReservedVersionInSideEndsTheDecode : let s := held .side [0xFF, 0xEB, 0x90, 0x00]
    s.pending = false ∧ s.phase = .side ∧ s.HoldsHeader 0xFFEB9000#32 ∧ (0xFFEB9000#32).toNat / 2 ^ 19 % 4 = 1 :=
  ⟨by decide, by decide, ⟨0xFF#8, 0xEB#8, 0x90#8, 0x00#8, by decide, by decide, by decide, by decide, by decide⟩, by decide⟩
/-- The payload statement's three cases: 36 bytes of a 32-byte frame, 24 of a 24-byte frame, and 23 of it. -/
theorem witness_PayloadEndsByItsLength_above :
    let s := turned .engine (held .payload ([0xFF, 0xFF, 0x14, 0x00] ++ filler 32))
    s.R31 ∧ s.HoldsHeader 0xFFFF1400#32 ∧ frameSize 0xFFFF1400#32 < s.bufLen.toNat :=
  ⟨by decide, ⟨0xFF#8, 0xFF#8, 0x14#8, 0x00#8, by decide, by decide, by decide, by decide, by decide⟩, by decide⟩
theorem witness_PayloadEndsByItsLength_at : let s := turned .engine (held .payload frameA)
    s.R31 ∧ s.HoldsHeader 0xFFF31400#32 ∧ s.bufLen.toNat = frameSize 0xFFF31400#32 :=
  ⟨by decide, ⟨0xFF#8, 0xF3#8, 0x14#8, 0x00#8, by decide, by decide, by decide, by decide, by decide⟩, by decide⟩
theorem witness_PayloadEndsByItsLength_below : let s := turned .engine (held .payload (frameA.take 23))
    s.R31 ∧ s.HoldsHeader 0xFFF31400#32 ∧ s.bufLen.toNat < frameSize 0xFFF31400#32 :=
  ⟨by decide, ⟨0xFF#8, 0xF3#8, 0x14#8, 0x00#8, by decide, by decide, by decide, by decide, by decide⟩, by decide⟩
theorem witness_ResetInputRestoresTheResetState :
    ({ asked .eof (held .sync [1, 2, 3]) with sched := [.reset []] } : State).sched = .reset [] :: [] := by decide
theorem witness_ConnectReplacesTheSourceWhenIdle :
    (turned (.connect [.eof]) State.reset).R31 ∧ (turned (.connect [.eof]) (held .sync [])).R31 ∧
    (held .sync []).phase ≠ .idle := by decide
/-- For the statements about a step from the invariant: a fetch answered in mid-frame. -/
theorem witness_StepFromTheInvariant : let s := asked (.byte 0x5A#8) (held .payload (frameA.take 23))
    s.Inv ∧ ∃ t, step s = .next t := ⟨by decide, _, rfl⟩
theorem witness_DoneFires : let s := turned .engine (held .payload frameA)
    s.Inv ∧ after (fun t => (t.done, t.phase)) s = some (true, .idle) := by decide
theorem witness_IdleKeepsTheFrame : let s := issuing 0x02_12345678#40 (framed frameA)
    s.Inv ∧ s.phase = .idle ∧ after (·.phase) s = some .idle := by decide
theorem witness_TakenBytes : let s := turned .engine (held .sync [0x12, 0x34, 0x56, 0xFF])
    s.Inv ∧ s.sched = .engine :: [] ∧ after (·.skipSat) s = some false := by decide
theorem witness_EngineIsIndependentOfProbe :
    ∃ t, step (turned .engine (held .payload frameA)) = .next t := ⟨_, rfl⟩
theorem witness_SkippedPositionsAreNeverLegal : (0x00#8 : Byte) ≠ 0xFF#8 := by decide
theorem witness_DecodeStarted : ({ State.reset with phase := .sync } : State).DecodeStarted := by decide
theorem witness_firstLegal_some : firstLegal [0x12, 0x34, 0x56, 0xFF, 0xFB, 0x90, 0x00] = some (3, 0xFFFB9000#32) := by decide
theorem witness_firstLegal_none : firstLegal [0xFF, 0x00, 0xFF, 0xFF, 0xE0, 0x12, 0xFF] = none := by decide
/-- Each outcome of the stream function: a whole frame, one byte short of it, too short a frame, and no header. -/
theorem witness_expectedResult : expectedResult frameA .eof = .ok ∧ expectedResult (frameA.take 23) .eof = .prematureEos ∧
    expectedResult (frameA.take 23) (.err 1#8) = .sourceError ∧
    expectedResult ([0xFF, 0xFF, 0x14, 0x00] ++ filler 32) .eof = .frameTooShort ∧
    expectedResult [0xFF] .eof = .noSyncFound := by decide
theorem witness_EveryAnsweredDecodeEnds : (held .sync [1, 2, 3]).Inv ∧ ∀ b, SrcAnswer.eof ≠ .byte b :=
  ⟨by decide, fun b h => by cases h⟩

end Sys2Proof.Tests
end

section
/-! PROOFS (spec/10_state.md). What a command and a step can do to the registers, said once for the statements about
every step. -/

namespace Sys2Proof.Machine

/-! ### What a command can do -/

/-- `t` is `s` with a response given and nothing else changed. -/
def State.OnlyAnswers (s t : State) : Prop := ∃ r, t = { s with rsp := some r }

theorem State.onlyAnswers_respond (s : State) (d : Word) : s.OnlyAnswers (s.respond d) := ⟨_, rfl⟩

theorem State.onlyAnswers_refuse (s : State) (c : RspCode) : s.OnlyAnswers (s.refuse c) := ⟨_, rfl⟩

theorem withHeader_onlyAnswers {src : HdrSrc} {s t : State} {k : Word → Outcome}
    (hk : ∀ w, k w = .next t → s.OnlyAnswers t) (h : withHeader src s k = .next t) : s.OnlyAnswers t := by
  rcases withHeader_next h with ⟨-, -, rfl⟩ | ⟨-, -, w, -, h⟩ | ⟨-, h⟩
  · exact s.onlyAnswers_refuse .noFrame
  · exact hk w h
  · exact hk _ h

theorem hfCommand_onlyAnswers {value : Word → Word} {src : HdrSrc} {s t : State}
    (h : hfCommand value src s = .next t) : s.OnlyAnswers t :=
  withHeader_onlyAnswers (fun w hw => by cases hw; exact s.onlyAnswers_respond _) h

theorem flCommand_onlyAnswers {value : Word → Option Nat} {src : HdrSrc} {s t : State}
    (h : flCommand value src s = .next t) : s.OnlyAnswers t := by
  refine withHeader_onlyAnswers (fun w hw => ?_) h
  split at hw
  · split at hw
    · cases hw; exact s.onlyAnswers_respond _
    · cases hw
  · cases hw; exact s.onlyAnswers_refuse .notLegal

theorem respondByte_onlyAnswers {s t : State} {i : Nat} (h : respondByte s i = .next t) : s.OnlyAnswers t := by
  obtain ⟨b, -, rfl⟩ := respondByte_next h
  exact s.onlyAnswers_respond _

theorem whenFrameValid_onlyAnswers {s t : State} {k : Outcome} (hk : k = .next t → s.OnlyAnswers t)
    (h : whenFrameValid s k = .next t) : s.OnlyAnswers t := by
  rcases whenFrameValid_next h with ⟨-, rfl⟩ | ⟨-, h⟩
  · exact s.onlyAnswers_refuse .noFrame
  · exact hk h

theorem execFdLen_onlyAnswers {s t : State} (h : execFdLen s = .next t) : s.OnlyAnswers t :=
  whenFrameValid_onlyAnswers (fun hk => by cases hk; exact s.onlyAnswers_respond _) h

theorem execFdCrc_onlyAnswers {s t : State} (h : execFdCrc s = .next t) : s.OnlyAnswers t := by
  refine whenFrameValid_onlyAnswers (fun hk => ?_) h
  obtain ⟨w, -, hk⟩ := withFrameHeader_next hk
  split at hk
  · split at hk
    · cases hk; exact s.onlyAnswers_respond _
    · cases hk
  · cases hk; exact s.onlyAnswers_respond _

theorem execFdByte_onlyAnswers {idx : Nat} {s t : State} (h : execFdByte idx s = .next t) : s.OnlyAnswers t := by
  refine whenFrameValid_onlyAnswers (fun hk => ?_) h
  split at hk
  · cases hk; exact s.onlyAnswers_refuse .range
  · exact respondByte_onlyAnswers hk

theorem execFdSide_onlyAnswers {idx : Nat} {s t : State} (h : execFdSide idx s = .next t) : s.OnlyAnswers t := by
  refine whenFrameValid_onlyAnswers (fun hk => ?_) h
  obtain ⟨w, -, hk⟩ := withFrameHeader_next hk
  split at hk
  · cases hk
  · split at hk
    · cases hk; exact s.onlyAnswers_refuse .range
    · exact respondByte_onlyAnswers hk

/-- DECODE is refused while a decode runs and starts one otherwise (spec/42_synchronizer.md R126). -/
theorem execDecode_next {s t : State} (h : execDecode s = .next t) :
    (s.phase ≠ .idle ∧ t = s.refuse .busy) ∨ (s.phase = .idle ∧ t = s.startDecode.respond 0#32) := by
  unfold execDecode at h
  split at h
  · cases h; exact .inl ⟨s.busy_eq_true.mp ‹_›, rfl⟩
  · cases h; exact .inr ⟨s.busy_eq_false.mp (Bool.eq_false_of_not_eq_true ‹_›), rfl⟩

/-- Every command only answers, but LDPROBE, which writes PROBE too, and an accepted DECODE (spec/20_memory.md R40). -/
theorem exec_next {i : Instr} {s t : State} (h : exec i s = .next t) :
    s.OnlyAnswers t ∨ (∃ w, i = .ldprobe w ∧ t = { s with probe := w }.respond 0#32) ∨
    (i = .decode ∧ s.phase = .idle ∧ t = s.startDecode.respond 0#32) := by
  cases i with
  | decode =>
    rcases execDecode_next h with ⟨-, rfl⟩ | ⟨hi, ht⟩
    · exact .inl (s.onlyAnswers_refuse .busy)
    · exact .inr (.inr ⟨rfl, hi, ht⟩)
  | ldprobe w => cases h; exact .inr (.inl ⟨w, rfl, rfl⟩)
  | nop | rdstat | rdskip => cases h; exact .inl (s.onlyAnswers_respond _)
  | hfRaw | hfVersion | hfLayer | hfProtection | hfBitrate | hfSamplerate | hfPad | hfPrivate | hfChmode
  | hfCopyright | hfOriginal | hfEmphasis | hfLegal => unfold exec at h; exact .inl (hfCommand_onlyAnswers h)
  | flSamples | flSize | flDuration | flSidelen | flCrclen =>
    unfold exec at h; exact .inl (flCommand_onlyAnswers h)
  | fdLen => exact .inl (execFdLen_onlyAnswers h)
  | fdCrc => exact .inl (execFdCrc_onlyAnswers h)
  | fdByte idx => exact .inl (execFdByte_onlyAnswers h)
  | fdSide idx => exact .inl (execFdSide_onlyAnswers h)

/-! ### What a step can do -/

/-- `t` is `s` up to PROBE, the outputs and the environment: the registers of the decode are the same. -/
def State.SameDecode (s t : State) : Prop :=
  t = { s with probe := t.probe, rsp := t.rsp, done := t.done, src := t.src, srcTaken := t.srcTaken,
               host := t.host, sched := t.sched }

namespace State.SameDecode

variable {s t u : State}

theorem phase (h : s.SameDecode t) : t.phase = s.phase := by rw [h]

theorem trans (h : s.SameDecode t) (h' : t.SameDecode u) : s.SameDecode u := by
  rw [State.SameDecode] at h h' ⊢
  rw [h', h]

theorem begun (s : State) (rest : List Turn) : s.SameDecode (s.begun rest) := rfl

theorem withHost (s : State) (rest : List HostAct) : s.SameDecode { s with host := rest } := rfl

/-- The invariant reads the registers of the decode alone. -/
theorem inv (h : s.SameDecode t) (hs : s.Inv) : t.Inv := by
  rw [h]; exact hs

end State.SameDecode

theorem State.OnlyAnswers.sameDecode {s t : State} (h : s.OnlyAnswers t) : s.SameDecode t := by
  obtain ⟨r, rfl⟩ := h; rfl

theorem State.OnlyAnswers.done {s t : State} (h : s.OnlyAnswers t) : t.done = s.done := by
  obtain ⟨r, rfl⟩ := h; rfl

/-- `t` starts a decode on the registers of `s`. -/
def State.Starts (s t : State) : Prop := ∃ u, s.SameDecode u ∧ t = u.startDecode

/-- The host's turn leaves the decode alone or, with no decode running, starts one. -/
theorem hostTurn_sameDecode_or_starts {s t : State} (h : hostTurn s = .next t) :
    t.done = s.done ∧ (s.SameDecode t ∨ (s.phase = .idle ∧ s.Starts t)) := by
  rcases hostTurn_next h with ⟨-, rfl⟩ | ⟨w, rest, i, -, -, h⟩ | ⟨w, rest, e, -, -, rfl⟩ | ⟨rest, -, rfl, -⟩ |
    ⟨rest, -, rfl, -⟩
  · exact ⟨rfl, .inl rfl⟩
  · rcases exec_next h with ho | ⟨p, -, rfl⟩ | ⟨-, hi, rfl⟩
    · exact ⟨ho.done, .inl (.trans (.withHost s rest) ho.sameDecode)⟩
    · exact ⟨rfl, .inl rfl⟩
    · exact ⟨rfl, .inr ⟨hi, _, .trans (.withHost s rest) (State.onlyAnswers_respond _ 0#32).sameDecode, rfl⟩⟩
  · exact ⟨rfl, .inl rfl⟩
  · exact ⟨rfl, .inl rfl⟩
  · exact ⟨rfl, .inl rfl⟩

/-- Connecting a source leaves the decode alone. -/
theorem connectTurn_sameDecode {answers : List SrcAnswer} {s t : State} (h : connectTurn answers s = .next t) :
    t.done = s.done ∧ s.SameDecode t := by
  unfold connectTurn at h
  split at h <;> (cases h; exact ⟨rfl, rfl⟩)

/-- A step leaves the decode alone, starts one, is a turn of the engine or of the source, or is a reset. -/
theorem step_effect {s t : State} (h : step s = .next t) :
    (t.done = false ∧ (s.SameDecode t ∨ (s.phase = .idle ∧ s.Starts t))) ∨
    (∃ rest, s.sched = .engine :: rest ∧ engineTurn (s.begun rest) = .next t) ∨
    (∃ rest, s.sched = .source :: rest ∧ sourceTurn (s.begun rest) = .next t) ∨
    (∃ answers rest, s.sched = .reset answers :: rest ∧ t = (s.begun rest).resetBlock answers) := by
  rcases step_next h with ⟨-, rfl⟩ | ⟨turn, rest, hs, ⟨rfl, -, h⟩ | ⟨rfl, -, h⟩ | ⟨rfl, -, h⟩ |
    ⟨answers, rfl, -, h⟩ | ⟨answers, rfl, rfl⟩⟩
  · exact .inl ⟨rfl, .inl rfl⟩
  · obtain ⟨hd, hsame | ⟨hi, u, hu, rfl⟩⟩ := hostTurn_sameDecode_or_starts h
    · exact .inl ⟨hd, .inl (.trans (.begun s rest) hsame)⟩
    · exact .inl ⟨hd, .inr ⟨hi, u, .trans (.begun s rest) hu, rfl⟩⟩
  · exact .inr (.inl ⟨rest, hs, h⟩)
  · exact .inr (.inr (.inl ⟨rest, hs, h⟩))
  · obtain ⟨hd, hsame⟩ := connectTurn_sameDecode h
    exact .inl ⟨hd, .inl (.trans (.begun s rest) hsame)⟩
  · exact .inr (.inr (.inr ⟨answers, rest, hs, rfl⟩))

end Sys2Proof.Machine
end

section
/-! PROOFS (spec/10_state.md R31). A running decode: the invariant of a state whose PHASE is not IDLE, and that every
engine and source turn keeps it or ends the decode with an outcome that is recorded. -/

namespace Sys2Proof.Machine

/-! ### Header lengths -/

theorem crcLen_le (h : Word) : crcLen h ≤ 2 := by
  unfold crcLen; split <;> omega

theorem sideLen_le {h : Word} {n : Nat} (hn : sideLen h = some n) : n ≤ 32 := by
  unfold sideLen at hn
  split_ifs at hn <;> cases hn <;> decide

theorem headLength_eq {h : Word} {n : Nat} (hn : sideLen h = some n) : headLength h = 4 + crcLen h + n := by
  rw [headLength, hn, Option.getD_some]

theorem four_add_crcLen_le_headLength (h : Word) : 4 + crcLen h ≤ headLength h := Nat.le_add_right _ _

theorem headLength_le (h : Word) : headLength h ≤ 38 := by
  have hc := crcLen_le h
  cases hn : sideLen h with
  | none => rw [headLength, hn, Option.getD_none]; omega
  | some n => rw [headLength_eq hn]; have := sideLen_le hn; omega

/-- A legal header has a side-info length (spec/41_frame_length.md R94). -/
theorem sideLen_of_legal {h : Word} (hl : legal h = true) : ∃ n, sideLen h = some n :=
  have ⟨_, _, _, hv, _⟩ := (legal_iff h).mp hl
  sideLen_isSome hv

/-- The bound of spec/41_frame_length.md R101, over the fields the size depends on. -/
theorem sizeOfFields_le {v l : BitVec 2} {i : BitVec 4} (hb : bitrateOf v l i ≠ Config.invalid) (s : BitVec 2)
    (p : Bool) : sizeOfFields v l i s p ≤ Config.maxFrame := by
  revert v l i s p; decide

/-- A legal header's frame fits the buffer (spec/41_frame_length.md R101). -/
theorem frameSize_le {h : Word} (hl : legal h = true) : frameSize h ≤ Config.maxFrame := by
  obtain ⟨-, -, -, -, -, hb⟩ := (legal_iff h).mp hl
  rw [frameSize_eq]
  exact sizeOfFields_le hb _ _

/-! ### The byte a phase needs -/

section
variable {s : State}

theorem State.phase_of_wantsByte (hw : s.wantsByte = true) : s.phase ≠ .idle := by
  intro hp; simp [State.wantsByte, hp] at hw

theorem State.wantsByte_sync (hp : s.phase = .sync) : s.wantsByte = true ↔ s.bufLen.toNat < 4 := by
  simp [State.wantsByte, hp]

theorem State.wantsByte_crc (hp : s.phase = .crc) : s.wantsByte = true ↔ s.bufLen.toNat < 6 := by
  simp [State.wantsByte, hp]

theorem State.wantsByte_side (hp : s.phase = .side) {w : Word} (hw : s.frameHeader = some w) {n : Nat}
    (hn : sideLen w = some n) : s.wantsByte = true ↔ s.bufLen.toNat < 4 + crcLen w + n := by
  simp [State.wantsByte, hp, hw, need, hn]

theorem State.wantsByte_payload (hp : s.phase = .payload) {w : Word} (hw : s.frameHeader = some w) :
    s.wantsByte = true ↔ s.bufLen.toNat < frameSize w := by
  simp [State.wantsByte, hp, hw, need]

theorem State.Inv.wantsByte (hs : s.Inv) (hp : s.pending = true) : s.wantsByte = true :=
  have ⟨_, _, hpend, _⟩ := hs
  hpend hp

/-- No fetch is pending while PHASE is IDLE. -/
theorem State.Inv.phase_of_pending (hs : s.Inv) (hp : s.pending = true) : s.phase ≠ .idle :=
  State.phase_of_wantsByte (hs.wantsByte hp)

end

/-! ### The invariant of a running decode -/

theorem State.headerSatisfies_iff {s : State} {p : Word → Prop} [DecidablePred p] :
    s.HeaderSatisfies p ↔ ∃ w, s.frameHeader = some w ∧ p w := by
  simp [State.HeaderSatisfies, Option.any_eq_true]

theorem State.headerLegal_iff {s : State} : s.headerLegal = true ↔ ∃ w, s.frameHeader = some w ∧ legal w = true := by
  simp [State.headerLegal, Option.any_eq_true]

theorem State.lengthIsSize_iff {s : State} :
    s.lengthIsSize = true ↔ ∃ w, s.frameHeader = some w ∧ s.bufLen.toNat = frameSize w := by
  simp [State.lengthIsSize, Option.any_eq_true]

/-- How far a decode in phase `p` has come: R31 items 3 and 4 and the model's byte counts, about one header word. -/
def State.Reached (s : State) : Phase → Prop
  | .idle => False
  | .sync => s.bufLen.toNat ≤ 4
  | .crc => ∃ w, s.frameHeader = some w ∧ legal w = true ∧ crcPresent w = true ∧
      4 ≤ s.bufLen.toNat ∧ s.bufLen.toNat ≤ 6
  | .side => ∃ w, s.frameHeader = some w ∧ legal w = true ∧
      4 + crcLen w ≤ s.bufLen.toNat ∧ s.bufLen.toNat ≤ headLength w
  | .payload => ∃ w, s.frameHeader = some w ∧ legal w = true ∧
      headLength w ≤ s.bufLen.toNat ∧ (s.bufLen.toNat ≤ frameSize w ∨ s.bufLen.toNat = headLength w)

/-- The invariant of a state in which a decode runs. -/
structure State.Decoding (s : State) : Prop where
  frameValid : s.frameValid = false
  result : s.result = .none
  srcErr : s.srcErr = 0#8
  skip : s.skipSat = true → s.skip.toNat = Config.skipMax
  filled : s.BufferFilled
  pending : s.pending = true → s.wantsByte = true
  reached : s.Reached s.phase

/-- While a decode runs the invariant says `Decoding`. -/
theorem State.Inv.decoding {s : State} (h : s.Inv) (hb : s.phase ≠ .idle) : s.Decoding := by
  obtain ⟨⟨-, hbusy, hhdr, hsync, -, -⟩, hfill, hpend, ⟨hcrc, hside, hpay, -⟩, -, -, -, -, -, herr, hskip⟩ := h
  obtain ⟨hv, hr⟩ := hbusy hb
  refine ⟨hv, hr, ?_, hskip, hfill, hpend, ?_⟩
  · by_contra he
    rw [hr] at herr; cases herr he
  · simp only [State.headerSatisfies_iff, State.headerLegal_iff] at hhdr hcrc hside hpay
    cases hp : s.phase with
    | idle => exact hb hp
    | sync => exact hsync hp
    | crc =>
      obtain ⟨h4, w, hw, hl⟩ := hhdr (.inl hp)
      obtain ⟨w', hw', hc, h6⟩ := hcrc hp
      cases hw.symm.trans hw'
      exact ⟨w, hw, hl, hc, h4, h6⟩
    | side =>
      obtain ⟨-, w, hw, hl⟩ := hhdr (.inr (.inl hp))
      obtain ⟨w', hw', hlo, hhi⟩ := hside hp
      cases hw.symm.trans hw'
      exact ⟨w, hw, hl, hlo, hhi⟩
    | payload =>
      obtain ⟨-, w, hw, hl⟩ := hhdr (.inr (.inr hp))
      obtain ⟨w', hw', hlo, hhi⟩ := hpay hp
      cases hw.symm.trans hw'
      exact ⟨w, hw, hl, hlo, hhi⟩

namespace State.Decoding

variable {s : State}

theorem bufLen_le (d : s.Decoding) : s.bufLen.toNat ≤ Config.maxFrame := by
  have hr := d.reached
  cases hp : s.phase <;> rw [hp] at hr
  case idle => exact hr.elim
  case sync => exact hr.trans (by decide)
  case crc => obtain ⟨w, -, -, -, -, h6⟩ := hr; exact h6.trans (by decide)
  case side =>
    obtain ⟨w, -, -, -, hhi⟩ := hr
    exact (hhi.trans (headLength_le w)).trans (by decide)
  case payload =>
    obtain ⟨w, -, hl, -, hhi | hhi⟩ := hr
    · exact hhi.trans (frameSize_le hl)
    · exact (hhi.le.trans (headLength_le w)).trans (by decide)

/-- Past SYNC a legal header is held (spec/10_state.md R31 item 3). -/
theorem header (d : s.Decoding) (hs : s.phase ≠ .sync) :
    4 ≤ s.bufLen.toNat ∧ ∃ w, s.frameHeader = some w ∧ legal w = true := by
  have hr := d.reached
  cases hp : s.phase <;> rw [hp] at hr
  case idle => exact hr.elim
  case sync => exact absurd hp hs
  case crc => obtain ⟨w, hw, hl, -, h4, -⟩ := hr; exact ⟨h4, w, hw, hl⟩
  case side => obtain ⟨w, hw, hl, hlo, -⟩ := hr; exact ⟨by omega, w, hw, hl⟩
  case payload =>
    obtain ⟨w, hw, hl, hlo, -⟩ := hr
    have := four_add_crcLen_le_headLength w
    exact ⟨by omega, w, hw, hl⟩

theorem inv (d : s.Decoding) : s.Inv := by
  have hb : s.phase ≠ .idle := fun hp => by have hr := d.reached; rwa [hp] at hr
  have hreached : ∀ {p}, s.phase = p → s.Reached p := fun hp => hp ▸ d.reached
  refine ⟨⟨?_, fun _ => ⟨d.frameValid, d.result⟩, ?_, hreached, d.bufLen_le, ?_⟩, d.filled, d.pending,
    ⟨?_, ?_, ?_, ?_⟩, ?_⟩
  · simp [d.frameValid]
  · intro hp
    rw [State.headerLegal_iff]
    exact d.header (by rcases hp with hp | hp | hp <;> simp [hp])
  · simp [d.result]
  · intro hp
    obtain ⟨w, hw, -, hc, -, h6⟩ := hreached hp
    exact State.headerSatisfies_iff.mpr ⟨w, hw, hc, h6⟩
  · intro hp
    obtain ⟨w, hw, -, h⟩ := hreached hp
    exact State.headerSatisfies_iff.mpr ⟨w, hw, h⟩
  · intro hp
    obtain ⟨w, hw, -, h⟩ := hreached hp
    exact State.headerSatisfies_iff.mpr ⟨w, hw, h⟩
  · simp [d.frameValid]
  · simpa [State.OutcomeRecorded, d.result, d.srcErr] using d.skip

/-! ### What keeps a decode running -/

/-- The engine may move to any phase whose byte counts are met. -/
theorem moveTo (d : s.Decoding) (hp : s.pending = false) {p : Phase} (hr : s.Reached p) :
    ({ s with phase := p } : State).Decoding :=
  { d with pending := fun h => (Bool.false_ne_true (hp.symm.trans h)).elim, reached := hr }

/-- A fetch may be issued where a byte is needed. -/
theorem fetch (d : s.Decoding) (hw : s.wantsByte = true) : ({ s with pending := true } : State).Decoding :=
  { d with pending := fun _ => hw }

/-- A fetch may be answered, and is pending no more. -/
theorem answered (d : s.Decoding) (rest : List SrcAnswer) :
    ({ s with pending := false, src := rest } : State).Decoding :=
  { d with pending := fun h => (Bool.false_ne_true h).elim }

end State.Decoding

/-- `skip_add` keeps the rule that SKIP_SAT stands only beside the largest SKIP (spec/10_state.md R19). -/
theorem State.skipAdd_skipSat {s : State} (h : s.skipSat = true → s.skip.toNat = Config.skipMax) (n : Nat) :
    (s.skipAdd n).skipSat = true → (s.skipAdd n).skip.toNat = Config.skipMax := by
  by_cases hn : s.skip.toNat + n ≤ Config.skipMax
  · rw [State.skipAdd_exact hn]
    intro hs
    have hm := h hs
    have : s.skip.toNat + n = Config.skipMax := by omega
    simp [this, Config.skipMax]
  · rw [State.skipAdd_saturates (Nat.lt_of_not_le hn)]
    intro _; rfl

namespace State.Decoding

variable {s : State}

theorem skipAdd (d : s.Decoding) (n : Nat) : (s.skipAdd n).Decoding := by
  have hskip := State.skipAdd_skipSat d.skip n
  by_cases hn : s.skip.toNat + n ≤ Config.skipMax
  · rw [State.skipAdd_exact hn] at hskip ⊢
    exact { d with skip := hskip }
  · rw [State.skipAdd_saturates (Nat.lt_of_not_le hn)] at hskip ⊢
    exact { d with skip := hskip }

/-- In SYNC a byte of the window may be overwritten. -/
theorem bufWrite (d : s.Decoding) (hs : s.phase = .sync) {i : BufAddr} (hi : i.toNat < s.bufLen.toNat) (b : Byte) :
    (s.bufWrite i b).Decoding := by
  have hr := d.reached
  rw [hs] at hr
  exact { d with
    filled := State.bufWrite_filled d.filled hi b
    pending := fun hp =>
      (State.wantsByte_sync (s := s.bufWrite i b) hs).mpr ((State.wantsByte_sync hs).mp (d.pending hp))
    reached := by rwa [State.bufWrite_phase, hs] }

/-- In SYNC the window may be shortened. -/
theorem setBufLen (d : s.Decoding) (hs : s.phase = .sync) {n : BufAddr} (hn : n.toNat ≤ s.bufLen.toNat) :
    (s.setBufLen n).Decoding := by
  have hr := d.reached
  rw [hs] at hr
  exact { d with
    filled := State.setBufLen_filled d.filled hn
    pending := fun hp =>
      (State.wantsByte_sync (s := s.setBufLen n) hs).mpr (hn.trans_lt ((State.wantsByte_sync hs).mp (d.pending hp)))
    reached := by rw [State.setBufLen_phase, hs]; exact hn.trans hr }

/-- A discard goes on searching with a window of 3 or 2 bytes (spec/42_synchronizer.md R117). -/
theorem discard {t : State} (d : s.Decoding) (hs : s.phase = .sync) (h4 : 4 ≤ s.bufLen.toNat)
    (h : discard s = .next t) : t.Decoding := by
  have hlt {k : BufAddr} (hk : k.toNat < 4) : k.toNat < s.bufLen.toNat := hk.trans_le h4
  obtain ⟨b1, b2, b3, -, -, -, ⟨-, rfl⟩ | ⟨-, rfl⟩⟩ := discard_next h
  · exact ((((d.bufWrite hs (hlt (by decide)) b1).bufWrite hs (hlt (by decide)) b2).bufWrite hs
      (hlt (by decide)) b3).setBufLen hs (hlt (by decide)).le).skipAdd 1
  · exact (((d.bufWrite hs (hlt (by decide)) b2).bufWrite hs (hlt (by decide)) b3).setBufLen hs
      (hlt (by decide)).le).skipAdd 2

end State.Decoding

/-- A fetched byte that was needed keeps the decode within its byte counts (spec/42_synchronizer.md R114, R115). -/
theorem State.Decoding.append {s : State} (d : s.Decoding) (hp : s.pending = false) (hw : s.wantsByte = true)
    (b : Byte) : (s.append b).Decoding := by
  have hlt : s.bufLen.toNat < 4095 := d.bufLen_le.trans_lt (by decide)
  refine ⟨d.frameValid, d.result, d.srcErr, d.skip, State.append_filled d.filled hlt b, by simp [hp], ?_⟩
  have hr := d.reached
  have hhdr (hs : s.phase ≠ .sync) : (s.append b).frameHeader = s.frameHeader :=
    State.frameHeader_append (d.header hs).1 hlt b
  rw [State.append_phase]
  cases hph : s.phase <;> rw [hph] at hr hhdr <;>
    simp only [State.Reached, State.append_bufLen_toNat hlt] at hr ⊢
  case sync => have := (State.wantsByte_sync hph).mp hw; omega
  case crc =>
    obtain ⟨w, hw', hl, hc, h4, -⟩ := hr
    have := (State.wantsByte_crc hph).mp hw
    exact ⟨w, (hhdr (by simp)).trans hw', hl, hc, by omega, by omega⟩
  case side =>
    obtain ⟨w, hw', hl, hlo, -⟩ := hr
    obtain ⟨n, hn⟩ := sideLen_of_legal hl
    have := (State.wantsByte_side hph hw' hn).mp hw
    exact ⟨w, (hhdr (by simp)).trans hw', hl, by omega, by rw [headLength_eq hn]; omega⟩
  case payload =>
    obtain ⟨w, hw', hl, hlo, -⟩ := hr
    have := (State.wantsByte_payload hph hw').mp hw
    exact ⟨w, (hhdr (by simp)).trans hw', hl, by omega, .inl (by omega)⟩

/-! ### The end of a decode -/

/-- What stands in the buffer when a decode ends with `k` (spec/60_exceptions.md R136). -/
def State.EndsWith (s : State) : DecodeResult → Prop
  | .ok => ∃ w, s.frameHeader = some w ∧ legal w = true ∧ s.bufLen.toNat = frameSize w ∧ headLength w ≤ frameSize w
  | .noSyncFound => s.bufLen.toNat ≤ 3
  | .prematureEos => 4 ≤ s.bufLen.toNat
  | .sourceError => True
  | .frameTooShort => ∃ w, s.frameHeader = some w ∧ frameSize w < headLength w ∧ s.bufLen.toNat = headLength w
  | .none | .invalidVersionForSideinfo | .invalidChannelMode => False

/-- A decode that ends with an outcome that its buffer bears out ends in the invariant; SRC_ERR is the error of the
source that ended it. -/
theorem State.Decoding.finish {s : State} (d : s.Decoding) (hp : s.pending = false) {k : DecodeResult}
    (hk : s.EndsWith k) (e : BitVec 8) (he : e ≠ 0#8 → k = .sourceError) :
    ({ s with srcErr := e }.finish k).Inv := by
  have hhdr : ({ s with srcErr := e }.finish k).frameHeader = s.frameHeader := State.frameHeader_congr rfl rfl
  have hsat {p : Word → Prop} [DecidablePred p] (h : ∃ w, s.frameHeader = some w ∧ p w) :
      ({ s with srcErr := e }.finish k).HeaderSatisfies p := State.headerSatisfies_iff.mpr (hhdr ▸ h)
  have hok (hv : (k == .ok) = true) : s.EndsWith .ok := eq_of_beq hv ▸ hk
  refine ⟨⟨fun hv => ⟨rfl, eq_of_beq (b := DecodeResult.ok) hv, ?legal, ?size⟩, by simp, by simp, by simp,
    d.bufLen_le, ?notChannelMode⟩, d.filled, by simp [hp], ⟨by simp, by simp, by simp, fun hv => ?longEnough⟩,
    by simp, ?noSync, ?premature, ?tooShort, ?notVersion, he, d.skip⟩
  case legal =>
    obtain ⟨w, hw, hl, -, -⟩ := hok hv
    exact State.headerLegal_iff.mpr ⟨w, hhdr.trans hw, hl⟩
  case size =>
    obtain ⟨w, hw, -, hsize, -⟩ := hok hv
    exact State.lengthIsSize_iff.mpr ⟨w, hhdr.trans hw, hsize⟩
  case longEnough =>
    obtain ⟨w, hw, -, -, hle⟩ := hok hv
    exact hsat ⟨w, hw, hle⟩
  case tooShort => rintro rfl; exact hsat hk
  case noSync | premature | notChannelMode | notVersion => rintro rfl; exact hk

/-- A decode that ends with no error of the source. -/
theorem State.Decoding.finish_self {s : State} (d : s.Decoding) (hp : s.pending = false) {k : DecodeResult}
    (hk : s.EndsWith k) : (s.finish k).Inv :=
  d.finish hp hk s.srcErr fun he => absurd d.srcErr he

/-! ### The turns of the engine and of the source -/

theorem engineTurn_inv {s t : State} (hs : s.Inv) (h : engineTurn s = .next t) : t.Inv := by
  rcases engineTurn_next h with ⟨-, rfl⟩ | ⟨hp, h⟩
  · exact hs
  have hdec {p : Phase} (hph : s.phase = p) (hb : p ≠ .idle) : s.Decoding ∧ s.Reached p :=
    have d := hs.decoding (hph ▸ hb)
    ⟨d, hph ▸ d.reached⟩
  rcases h with ⟨hph, hlt, rfl⟩ | ⟨hph, h4, w, hw, hl, rfl⟩ | ⟨hph, h4, w, -, -, h⟩ | ⟨hph, hlt, rfl⟩ |
    ⟨hph, h6, rfl⟩ | ⟨hph, w, hw, hn, -⟩ | ⟨hph, w, n, hw, hn, hlt, rfl⟩ | ⟨hph, w, n, hw, hn, hle, rfl⟩ |
    ⟨hph, w, hw, -, hlt, rfl⟩ | ⟨hph, w, hw, -, hlt, rfl⟩ | ⟨hph, w, hw, hl, heq, rfl⟩ <;>
    obtain ⟨d, hr⟩ := hdec hph (by decide)
  -- SYNC: fetch, a legal header, discard
  · exact (d.fetch ((State.wantsByte_sync hph).mpr hlt)).inv
  · have hlen : s.bufLen.toNat = 4 := Nat.le_antisymm hr h4
    refine (d.moveTo hp ?_).inv
    cases hc : crcPresent w with
    | true => exact ⟨w, hw, hl, hc, by omega, by omega⟩
    | false =>
      have hcl : crcLen w = 0 := by simp [crcLen, hc]
      have hhead := four_add_crcLen_le_headLength w
      exact ⟨w, hw, hl, by omega, by omega⟩
  · exact (d.discard hph h4 h).inv
  -- CRC: fetch, complete
  · exact (d.fetch ((State.wantsByte_crc hph).mpr hlt)).inv
  · obtain ⟨w, hw, hl, hc, -, hle⟩ := hr
    have hcl : crcLen w = 2 := by simp [crcLen, hc]
    have hhead := four_add_crcLen_le_headLength w
    exact (d.moveTo (p := .side) hp ⟨w, hw, hl, by omega, by omega⟩).inv
  -- SIDE: a reserved version, fetch, complete
  · obtain ⟨w', hw', hl, -⟩ := hr
    cases hw.symm.trans hw'
    obtain ⟨n, hsome⟩ := sideLen_of_legal hl
    cases hn.symm.trans hsome
  · exact (d.fetch ((State.wantsByte_side hph hw hn).mpr hlt)).inv
  · obtain ⟨w', hw', hl, -, hhi⟩ := hr
    cases hw.symm.trans hw'
    have hlen : s.bufLen.toNat = headLength w := Nat.le_antisymm hhi (headLength_eq hn ▸ hle)
    exact (d.moveTo (p := .payload) hp ⟨w, hw, hl, hlen.ge, .inr hlen⟩).inv
  -- PAYLOAD: too short, fetch, complete
  · obtain ⟨w', hw', -, hlo, hhi⟩ := hr
    cases hw.symm.trans hw'
    exact d.finish_self hp ⟨w, hw, by omega, by omega⟩
  · exact (d.fetch ((State.wantsByte_payload hph hw).mpr hlt)).inv
  · obtain ⟨w', hw', -, hlo, -⟩ := hr
    cases hw.symm.trans hw'
    exact d.finish_self hp ⟨w, hw, hl, heq, by omega⟩

theorem answerFetch_inv {s : State} (d : s.Decoding) (hp : s.pending = false) (hw : s.wantsByte = true)
    (a : SrcAnswer) : (answerFetch a s).Inv := by
  cases a with
  | byte b => exact (d.append hp hw b).inv
  | err e => exact d.finish (k := .sourceError) hp trivial e fun _ => rfl
  | eof =>
    refine d.finish_self hp ?_
    by_cases hs : s.phase = .sync
    · rw [if_pos hs]
      exact Nat.le_of_lt_succ ((State.wantsByte_sync hs).mp hw)
    · rw [if_neg hs]
      exact (d.header hs).1

theorem sourceTurn_inv {s t : State} (hs : s.Inv) (h : sourceTurn s = .next t) : t.Inv := by
  rcases sourceTurn_next h with ⟨-, rfl⟩ | ⟨hp, a, rest, -, rfl⟩
  · exact hs
  · exact answerFetch_inv ((hs.decoding (hs.phase_of_pending hp)).answered rest) rfl (hs.wantsByte hp) a

/-! ### The start of a decode, and reset -/

/-- DECODE starts a decode with an empty buffer and no fetch pending. -/
theorem State.startDecode_inv {s : State} (hs : s.Inv) (hi : s.phase = .idle) : s.startDecode.Inv := by
  have hp : s.pending = false := Bool.eq_false_of_not_eq_true fun hp => hs.phase_of_pending hp hi
  exact State.Decoding.inv ⟨rfl, rfl, rfl, by simp, by simp [State.BufferFilled], by simp [hp], by simp [State.Reached]⟩

/-- Settles O45. -/
theorem resetMeetsTheInvariant : Obligations.ResetMeetsTheInvariant := by
  unfold Obligations.ResetMeetsTheInvariant
  decide

theorem State.resetBlock_inv (s : State) (answers : List SrcAnswer) : (s.resetBlock answers).Inv :=
  State.SameDecode.inv (s := State.reset) rfl resetMeetsTheInvariant

/-- Settles O46: a step leaves the decode alone, starts one, or is a turn of the engine or of the source, and each of
these keeps the invariant. -/
theorem stepKeepsTheInvariant : Obligations.StepKeepsTheInvariant := by
  intro s t hs h
  have hbegun (rest : List Turn) : (s.begun rest).Inv := (State.SameDecode.begun s rest).inv hs
  rcases step_effect h with ⟨-, hsame | ⟨hi, u, hu, rfl⟩⟩ | ⟨rest, -, h⟩ | ⟨rest, -, h⟩ | ⟨answers, rest, -, rfl⟩
  · exact hsame.inv hs
  · exact State.startDecode_inv (hu.inv hs) (hu.phase.trans hi)
  · exact engineTurn_inv (hbegun rest) h
  · exact sourceTurn_inv (hbegun rest) h
  · exact State.resetBlock_inv _ answers

end Sys2Proof.Machine
end

section
/-! PROOFS (spec/10_state.md R16, R23). How PHASE and DONE move in a step. -/

namespace Sys2Proof.Machine

/-- The moves of a decode that goes on (spec/10_state.md R16). -/
def State.Advances (s : State) (p : Phase) : Prop :=
  (s.phase = .sync ∧ p = .crc ∧ s.HeaderSatisfies fun h => crcPresent h = true) ∨
  (s.phase = .sync ∧ p = .side ∧ s.HeaderSatisfies fun h => crcPresent h = false) ∨
  (s.phase = .crc ∧ p = .side) ∨ (s.phase = .side ∧ p = .payload)

theorem State.Advances.ne_idle {s : State} {p : Phase} (h : s.Advances p) : p ≠ .idle := by
  rcases h with ⟨-, rfl, -⟩ | ⟨-, rfl, -⟩ | ⟨-, rfl⟩ | ⟨-, rfl⟩ <;> decide

theorem discard_phase_done {s t : State} (h : discard s = .next t) : t.phase = s.phase ∧ t.done = s.done := by
  obtain ⟨b1, b2, b3, -, -, -, ⟨-, rfl⟩ | ⟨-, rfl⟩⟩ := discard_next h <;> simp

/-- The engine's turn keeps PHASE, ends a running decode, or moves it on. -/
theorem engineTurn_phase {s t : State} (h : engineTurn s = .next t) :
    (t.phase = s.phase ∧ t.done = s.done) ∨ (s.phase ≠ .idle ∧ t.phase = .idle ∧ t.done = true) ∨
    (s.Advances t.phase ∧ t.done = s.done) := by
  rcases engineTurn_next h with ⟨-, rfl⟩ | ⟨-, h⟩
  · exact .inl ⟨rfl, rfl⟩
  rcases h with ⟨-, -, rfl⟩ | ⟨hph, -, w, hw, -, rfl⟩ | ⟨-, -, w, -, -, h⟩ | ⟨-, -, rfl⟩ | ⟨hph, -, rfl⟩ |
    ⟨hph, w, -, -, rfl⟩ | ⟨-, w, n, -, -, -, rfl⟩ | ⟨hph, w, n, -, -, -, rfl⟩ |
    ⟨hph, w, -, -, -, rfl⟩ | ⟨-, w, -, -, -, rfl⟩ | ⟨hph, w, -, -, -, rfl⟩
  -- SYNC: fetch, a legal header, discard
  · exact .inl ⟨rfl, rfl⟩
  · refine .inr (.inr ⟨?_, rfl⟩)
    cases hc : crcPresent w with
    | true => exact .inl ⟨hph, rfl, State.headerSatisfies_iff.mpr ⟨w, hw, hc⟩⟩
    | false => exact .inr (.inl ⟨hph, rfl, State.headerSatisfies_iff.mpr ⟨w, hw, hc⟩⟩)
  · exact .inl (discard_phase_done h)
  -- CRC: fetch, complete
  · exact .inl ⟨rfl, rfl⟩
  · exact .inr (.inr ⟨.inr (.inr (.inl ⟨hph, rfl⟩)), rfl⟩)
  -- SIDE: a reserved version, fetch, complete
  · exact .inr (.inl ⟨by simp [hph], rfl, rfl⟩)
  · exact .inl ⟨rfl, rfl⟩
  · exact .inr (.inr ⟨.inr (.inr (.inr ⟨hph, rfl⟩)), rfl⟩)
  -- PAYLOAD: too short, fetch, complete
  · exact .inr (.inl ⟨by simp [hph], rfl, rfl⟩)
  · exact .inl ⟨rfl, rfl⟩
  · exact .inr (.inl ⟨by simp [hph], rfl, rfl⟩)

/-- The source's turn keeps PHASE or, answering a fetch, ends the decode. -/
theorem sourceTurn_phase {s t : State} (h : sourceTurn s = .next t) :
    (t.phase = s.phase ∧ t.done = s.done) ∨ (s.pending = true ∧ t.phase = .idle ∧ t.done = true) := by
  rcases sourceTurn_next h with ⟨-, rfl⟩ | ⟨hp, a, rest, -, rfl⟩
  · exact .inl ⟨rfl, rfl⟩
  · cases a with
    | byte b => exact .inl ⟨rfl, rfl⟩
    | eof | err e => exact .inr ⟨hp, rfl, rfl⟩

/-- A step keeps PHASE, starts a decode, moves it on, ends it with DONE, or resets the block without. -/
theorem step_phase {s t : State} (h : step s = .next t) :
    (t.done = false ∧ (t.phase = s.phase ∨ (s.phase = .idle ∧ t.phase = .sync) ∨ s.Advances t.phase)) ∨
    (t.done = true ∧ (s.phase ≠ .idle ∨ s.pending = true) ∧ t.phase = .idle ∧
      ∀ answers rest, s.sched ≠ .reset answers :: rest) ∨
    (t.done = false ∧ t.phase = .idle ∧ ∃ answers rest, s.sched = .reset answers :: rest) := by
  rcases step_effect h with ⟨hd, hsame | ⟨hi, u, -, rfl⟩⟩ | ⟨rest, hs, h⟩ | ⟨rest, hs, h⟩ | ⟨answers, rest, hs, rfl⟩
  · exact .inl ⟨hd, .inl hsame.phase⟩
  · exact .inl ⟨hd, .inr (.inl ⟨hi, rfl⟩)⟩
  · rcases engineTurn_phase h with ⟨hp, hd⟩ | ⟨hb, hp, hd⟩ | ⟨ha, hd⟩
    · exact .inl ⟨hd, .inl hp⟩
    · exact .inr (.inl ⟨hd, .inl hb, hp, by simp [hs]⟩)
    · exact .inl ⟨hd, .inr (.inr ha)⟩
  · rcases sourceTurn_phase h with ⟨hp, hd⟩ | ⟨hpend, hp, hd⟩
    · exact .inl ⟨hd, .inl hp⟩
    · exact .inr (.inl ⟨hd, .inr hpend, hp, by simp [hs]⟩)
  · exact .inr (.inr ⟨rfl, rfl, answers, rest, hs⟩)

/-- Settles O49, from what a step can do to PHASE. -/
theorem phaseMovesForward : Obligations.PhaseMovesForward := by
  intro s t h
  rcases step_phase h with ⟨-, hkeep | hstart | hadv⟩ | ⟨-, -, hidle, -⟩ | ⟨-, hidle, -⟩
  · exact .inl hkeep
  · exact .inr (.inr (.inl hstart))
  · exact .inr (.inr (.inr hadv))
  · exact .inr (.inl hidle)
  · exact .inr (.inl hidle)

/-- Settles O50: a fetch answered with Eof or an error ends a decode too, since none is pending while PHASE is IDLE. -/
theorem doneFiresExactlyAtTheEndOfADecode : Obligations.DoneFiresExactlyAtTheEndOfADecode := by
  intro s t hs h
  rcases step_phase h with ⟨hd, hkeep⟩ | ⟨hd, hran, hidle, hnoreset⟩ | ⟨hd, -, answers, rest, hreset⟩
  · simp only [hd, Bool.false_eq_true, false_iff]
    rintro ⟨hb, hidle, -⟩
    rcases hkeep with hp | ⟨hi, -⟩ | ha
    · exact hb (hp.symm.trans hidle)
    · exact hb hi
    · exact ha.ne_idle hidle
  · have hb : s.phase ≠ .idle := hran.elim id hs.phase_of_pending
    exact iff_of_true hd ⟨hb, hidle, hnoreset⟩
  · exact iff_of_false (by simp [hd]) fun ⟨_, _, hnoreset⟩ => hnoreset answers rest hreset

end Sys2Proof.Machine
end

section
/-! PROOFS (spec/10_state.md R20). The engine and the source commute with a write of PROBE. -/

namespace Sys2Proof.Machine

/-- `s` with another word in PROBE. -/
def State.withProbe (s : State) (w : Word) : State := { s with probe := w }

/-- An outcome with another word in PROBE. -/
def Outcome.withProbe (w : Word) : Outcome → Outcome
  | .next t => .next (t.withProbe w)
  | .fault f => .fault f
  | .refused r => .refused r

section
variable (s : State) (w : Word)

theorem State.bufWrite_withProbe (i : BufAddr) (b : Byte) :
    (s.withProbe w).bufWrite i b = (s.bufWrite i b).withProbe w := rfl

theorem State.setBufLen_withProbe (n : BufAddr) : (s.withProbe w).setBufLen n = (s.setBufLen n).withProbe w := rfl

theorem State.skipAdd_withProbe (n : Nat) : (s.withProbe w).skipAdd n = (s.skipAdd n).withProbe w := by
  by_cases h : s.skip.toNat + n ≤ Config.skipMax
  · rw [State.skipAdd_exact (s := s) h, State.skipAdd_exact (s := s.withProbe w) h]; rfl
  · have h := Nat.lt_of_not_le h
    rw [State.skipAdd_saturates (s := s) h, State.skipAdd_saturates (s := s.withProbe w) h]; rfl

theorem withFrameHeader_withProbe {k k' : Word → Outcome} (hk : ∀ h, k' h = Outcome.withProbe w (k h)) :
    withFrameHeader (s.withProbe w) k' = Outcome.withProbe w (withFrameHeader s k) := by
  have hh : (s.withProbe w).frameHeader = s.frameHeader := State.frameHeader_congr rfl rfl
  unfold withFrameHeader
  rw [hh]
  cases s.frameHeader with
  | none => rfl
  | some h => exact hk h

theorem discard_withProbe : discard (s.withProbe w) = Outcome.withProbe w (discard s) := by
  have hr : (s.withProbe w).bufRead = s.bufRead := State.bufRead_congr rfl rfl
  unfold discard
  simp only [hr, State.bufWrite_withProbe, State.setBufLen_withProbe, State.skipAdd_withProbe]
  split
  · split <;> rfl
  · rfl

theorem engineSync_withProbe : engineSync (s.withProbe w) = Outcome.withProbe w (engineSync s) := by
  unfold engineSync
  rw [apply_ite (Outcome.withProbe w)]
  refine ite_congr rfl (fun _ => rfl) fun _ => withFrameHeader_withProbe s w fun h => ?_
  rw [apply_ite (Outcome.withProbe w)]
  exact ite_congr rfl (fun _ => rfl) fun _ => discard_withProbe s w

theorem engineCrc_withProbe : engineCrc (s.withProbe w) = Outcome.withProbe w (engineCrc s) := by
  unfold engineCrc
  rw [apply_ite (Outcome.withProbe w)]
  rfl

theorem engineSide_withProbe : engineSide (s.withProbe w) = Outcome.withProbe w (engineSide s) := by
  refine withFrameHeader_withProbe s w fun h => ?_
  cases sideLen h with
  | none => rfl
  | some n => simp only [apply_ite (Outcome.withProbe w)]; rfl

theorem enginePayload_withProbe : enginePayload (s.withProbe w) = Outcome.withProbe w (enginePayload s) := by
  refine withFrameHeader_withProbe s w fun h => ?_
  simp only [apply_ite (Outcome.withProbe w)]
  rfl

theorem engineTurn_withProbe : engineTurn (s.withProbe w) = Outcome.withProbe w (engineTurn s) := by
  unfold engineTurn
  rw [apply_ite (Outcome.withProbe w)]
  refine ite_congr rfl (fun _ => rfl) fun _ => ?_
  rw [show (s.withProbe w).phase = s.phase from rfl]
  cases s.phase with
  | idle => rfl
  | sync => exact engineSync_withProbe s w
  | crc => exact engineCrc_withProbe s w
  | side => exact engineSide_withProbe s w
  | payload => exact enginePayload_withProbe s w

theorem answerFetch_withProbe (a : SrcAnswer) : answerFetch a (s.withProbe w) = (answerFetch a s).withProbe w := by
  cases a <;> rfl

theorem sourceTurn_withProbe : sourceTurn (s.withProbe w) = Outcome.withProbe w (sourceTurn s) := by
  unfold sourceTurn
  rw [apply_ite (Outcome.withProbe w)]
  refine ite_congr rfl (fun _ => ?_) fun _ => rfl
  rw [show (s.withProbe w).src = s.src from rfl]
  cases s.src with
  | nil => rfl
  | cons a rest => exact congrArg _ (answerFetch_withProbe { s with pending := false, src := rest } w a)

/-- A step of the engine or of the source commutes with a write of PROBE. -/
theorem step_withProbe {rest : List Turn} (hs : s.sched = .engine :: rest ∨ s.sched = .source :: rest) :
    step (s.withProbe w) = Outcome.withProbe w (step s) := by
  have hsched : (s.withProbe w).sched = s.sched := rfl
  unfold step nextTurn
  rw [hsched]
  rcases hs with hs | hs <;> rw [hs] <;> simp only [takeTurn, inReachable, apply_ite (Outcome.withProbe w)]
  · exact ite_congr rfl (fun _ => engineTurn_withProbe (s.begun rest) w) fun _ => rfl
  · exact ite_congr rfl (fun _ => sourceTurn_withProbe (s.begun rest) w) fun _ => rfl

end

/-- Settles O53: with PROBE rewritten to its own word, commuting says that the step did not write it. -/
theorem engineIsIndependentOfProbe : Obligations.EngineIsIndependentOfProbe := by
  rintro s t w ⟨rest, hs⟩ h
  have hcomm (v : Word) : step (s.withProbe v) = .next (t.withProbe v) := by
    rw [step_withProbe s v hs, h]; rfl
  have hself : t = t.withProbe s.probe := Host.Outcome.next.inj (h.symm.trans (hcomm s.probe))
  have hkept := congrArg State.probe hself
  exact ⟨hkept, hcomm w⟩

end Sys2Proof.Machine
end

section
/-! PROOFS (spec/10_state.md R25 to R29, R32). The constants. -/

namespace Sys2Proof.Machine

/-- No byte is readable in an empty buffer (spec/10_state.md R18). -/
theorem State.bufRead_reset (k : Nat) : State.reset.bufRead k = none := State.bufRead_eq_none (Nat.zero_le k)

/-- Settles O42. -/
theorem resetLeavesTheSpecValues : Obligations.ResetLeavesTheSpecValues :=
  ⟨rfl, rfl, rfl, rfl, rfl, rfl, rfl, rfl, rfl, rfl, by decide, by decide, State.bufRead_reset⟩

/-- MPEG2.5 has the bitrates of MPEG2 (spec/10_state.md R25). -/
theorem romBr_mpeg25 (l : BitVec 2) (i : BitVec 4) : romBr mpeg25 l i = romBr mpeg2 l i := rfl

/-- MPEG2.5 has the samples per frame of MPEG2 (spec/10_state.md R25). -/
theorem romSpf_mpeg25 (l : BitVec 2) : romSpf mpeg25 l = romSpf mpeg2 l := rfl

/-- The reserved version has no bitrate (spec/10_state.md R26). -/
theorem romBr_reservedVersion (l : BitVec 2) (i : BitVec 4) : romBr reservedVersion l i = 0#9 := rfl

/-- The reserved layer has no bitrate (spec/10_state.md R26). -/
theorem romBr_reservedLayer (v : BitVec 2) (i : BitVec 4) : romBr v reservedLayer i = 0#9 := by
  revert v i; decide

/-- Settles O17: the copied and the empty rows by the lemmas above, the written rows entry by entry. -/
theorem lookupRomsHoldTheSpecTables : Obligations.LookupRomsHoldTheSpecTables :=
  ⟨romBr_mpeg25, romSpf_mpeg25, by decide, by decide, by decide, by decide, by decide, by decide,
    romBr_reservedVersion, romBr_reservedLayer, by decide, by decide, by decide⟩

end Sys2Proof.Machine
end

section
/-! PROOFS (spec/20_memory.md R40, R44). When the engine asks for a byte, and what a step without a decode leaves alone. -/

namespace Sys2Proof.Machine

/-! ### The fetch -/

section
variable {s t : State}

theorem State.wantsByte_eq_false_of_idle (hp : s.phase = .idle) : s.wantsByte = false := by
  simp [State.wantsByte, hp]

/-- Where ERR_VERSION leaves no count, no byte is lacking (spec/42_synchronizer.md R114, R119). -/
theorem State.wantsByte_eq_false_of_sideLen_none (hp : s.phase = .side) {w : Word} (hw : s.frameHeader = some w)
    (hn : sideLen w = none) : s.wantsByte = false := by
  simp [State.wantsByte, hp, hw, need, hn]

theorem discard_pending (h : discard s = .next t) : t.pending = s.pending := by
  obtain ⟨b1, b2, b3, -, -, -, ⟨-, rfl⟩ | ⟨-, rfl⟩⟩ := discard_next h <;> simp

/-- `t` is `s` with a fetch issued for a byte that is lacking, or none is lacking and `t` has no fetch pending. -/
def State.AsksForMissing (s t : State) : Prop :=
  (s.wantsByte = true ∧ t = { s with pending := true }) ∨ (s.wantsByte = false ∧ t.pending = false)

/-- With no fetch pending, the engine's turn asks for a byte that its phase lacks and for no other
(spec/42_synchronizer.md R114). -/
theorem engineTurn_asksForMissing (hp : s.pending = false) (h : engineTurn s = .next t) : s.AsksForMissing t := by
  have asks (hw : s.wantsByte = true) : s.AsksForMissing { s with pending := true } := .inl ⟨hw, rfl⟩
  have goesOn {u : State} {n : Nat} (hn : s.wantsByte = true ↔ s.bufLen.toNat < n) (hle : n ≤ s.bufLen.toNat)
      (hu : u.pending = s.pending) : s.AsksForMissing u :=
    .inr ⟨Bool.eq_false_iff.mpr fun hw => hle.not_gt (hn.mp hw), hu.trans hp⟩
  rcases engineTurn_next h with ⟨hheld, rfl⟩ | ⟨-, h⟩
  · have hidle : t.phase = .idle := hheld.resolve_left (by simp [hp])
    exact .inr ⟨State.wantsByte_eq_false_of_idle hidle, hp⟩
  rcases h with ⟨hph, hlt, rfl⟩ | ⟨hph, h4, w, -, -, rfl⟩ | ⟨hph, h4, w, -, -, h⟩ | ⟨hph, hlt, rfl⟩ |
    ⟨hph, h6, rfl⟩ | ⟨hph, w, hw, hn, rfl⟩ | ⟨hph, w, n, hw, hn, hlt, rfl⟩ | ⟨hph, w, n, hw, hn, hle, rfl⟩ |
    ⟨hph, w, hw, -, hlt, rfl⟩ | ⟨hph, w, hw, -, hlt, rfl⟩ | ⟨hph, w, hw, -, heq, rfl⟩
  -- SYNC: fetch, a legal header, discard
  · exact asks ((State.wantsByte_sync hph).mpr hlt)
  · exact goesOn (State.wantsByte_sync hph) h4 rfl
  · exact goesOn (State.wantsByte_sync hph) h4 (discard_pending h)
  -- CRC: fetch, complete
  · exact asks ((State.wantsByte_crc hph).mpr hlt)
  · exact goesOn (State.wantsByte_crc hph) h6 rfl
  -- SIDE: a reserved version, fetch, complete
  · exact .inr ⟨State.wantsByte_eq_false_of_sideLen_none hph hw hn, hp⟩
  · exact asks ((State.wantsByte_side hph hw hn).mpr hlt)
  · exact goesOn (State.wantsByte_side hph hw hn) hle rfl
  -- PAYLOAD: too short, fetch, complete
  · exact goesOn (State.wantsByte_payload hph hw) hlt.le rfl
  · exact asks ((State.wantsByte_payload hph hw).mpr hlt)
  · exact goesOn (State.wantsByte_payload hph hw) heq.ge rfl

/-- The engine's step is its turn. -/
theorem engineTurn_of_step {rest : List Turn} (hs : s.sched = .engine :: rest) (h : step s = .next t) :
    engineTurn (s.begun rest) = .next t := by
  unfold step nextTurn at h
  rw [hs] at h
  exact (inReachable_next h).2

end

/-- Settles O35: the engine's turn either asks for a byte that is lacking, or lacks none and asks for none. -/
theorem engineAsksExactlyForMissingBytes : Obligations.EngineAsksExactlyForMissingBytes := by
  intro s t rest hs hp h
  have hwants : (s.begun rest).wantsByte = s.wantsByte := rfl
  rcases engineTurn_asksForMissing (s := s.begun rest) hp (engineTurn_of_step hs h) with ⟨hw, rfl⟩ | ⟨hw, ht⟩ <;>
    rw [hwants] at hw
  · exact ⟨iff_of_true rfl hw, fun _ => rfl⟩
  · exact ⟨by simp [ht, hw], by simp [hw]⟩

/-! ### A step without a decode -/

section
variable {s t : State}

theorem engineTurn_of_idle (hi : s.phase = .idle) : engineTurn s = .next s := by
  unfold engineTurn
  rw [hi]
  exact ite_self _

theorem sourceTurn_of_not_pending (hp : s.pending = false) : sourceTurn s = .next s := by
  simp [sourceTurn, hp]

theorem State.Inv.pending_of_idle (hs : s.Inv) (hi : s.phase = .idle) : s.pending = false :=
  Bool.eq_false_iff.mpr fun hp => hs.phase_of_pending hp hi

/-- With no decode running, a step that starts none and is no reset leaves the registers of a decode alone: the engine
and the source have nothing to do (spec/20_memory.md R40). -/
theorem step_sameDecode_of_idle (hs : s.Inv) (hi : s.phase = .idle) (h : step s = .next t) (ht : t.phase = .idle)
    (hnoreset : ∀ answers rest, s.sched ≠ .reset answers :: rest) : s.SameDecode t := by
  rcases step_effect h with ⟨-, hsame | ⟨-, u, -, rfl⟩⟩ | ⟨rest, -, h⟩ | ⟨rest, -, h⟩ | ⟨answers, rest, hreset, -⟩
  · exact hsame
  · cases ht
  · rw [engineTurn_of_idle (s := s.begun rest) hi] at h
    cases h; exact .begun s rest
  · rw [sourceTurn_of_not_pending (s := s.begun rest) (hs.pending_of_idle hi)] at h
    cases h; exact .begun s rest
  · exact absurd hreset (hnoreset answers rest)

end

/-- Settles O51: the frame and the outcome are registers of the decode. -/
theorem idleKeepsTheFrameAndTheOutcome : Obligations.IdleKeepsTheFrameAndTheOutcome := by
  intro s t hs hi h ht hnoreset
  rw [step_sameDecode_of_idle hs hi h ht hnoreset]
  exact ⟨rfl, rfl, rfl, rfl, rfl, rfl, rfl⟩

end Sys2Proof.Machine
end

section
/-! PROOFS (spec/30_encoding.md R57 to R61). What the decoder makes of an opcode byte and an argument word: every opcode
byte is a command's or unassigned, a command's byte is read as that command with the argument word as its operand, and
an unassigned byte is an error whatever the argument word. -/

namespace Sys2Proof

/-! ### The fields of an opcode byte -/

section
variable (c : BitVec 2) (src : HdrSrc) (f : BitVec 5)

theorem opcode_toNat : (opcode c src f).toNat = c.toNat * 64 + (sourceBit src).toNat * 32 + f.toNat := by
  simp only [opcode, BitVec.toNat_cast, toNat_concat]; omega

@[simp] theorem opClass_opcode : opClass (opcode c src f) = c.toNat := by
  rw [opClass_eq, opcode_toNat]; omega

@[simp] theorem opFunction_opcode : opFunction (opcode c src f) = f.toNat := by
  rw [opFunction_eq, opcode_toNat]; omega

@[simp] theorem opSource_opcode : opSource (opcode c src f) = src := by
  rw [opSource_eq, opcode_toNat]
  cases src <;> simp only [sourceBit, BitVec.toNat_ofNat]
  · exact if_neg (by omega)
  · exact if_pos (by omega)

end

/-- An opcode byte is made of its three fields (spec/30_encoding.md R57). -/
theorem opcode_parts (op : Byte) :
    opcode (BitVec.ofNat 2 (opClass op)) (opSource op) (BitVec.ofNat 5 (opFunction op)) = op := by
  apply BitVec.eq_of_toNat_eq
  rw [opcode_toNat, opClass_eq, opFunction_eq, opSource_eq]
  split <;> simp only [sourceBit, BitVec.toNat_ofNat] <;> omega

/-! ### The decoder, class by class -/

section
variable {op : Byte} (arg : Word)

theorem decodeWord_control (h : opClass op = 0) :
    decodeWord (cmdWord op arg) = decodeControl (opSource op) (opFunction op) arg := by
  simp [decodeWord, h]

theorem decodeWord_headerField (h : opClass op = 1) :
    decodeWord (cmdWord op arg) = decodeHeaderField (opSource op) (opFunction op) := by
  simp [decodeWord, h]

theorem decodeWord_frameLength (h : opClass op = 2) :
    decodeWord (cmdWord op arg) = decodeFrameLength (opSource op) (opFunction op) := by
  simp [decodeWord, h]

theorem decodeWord_frameData (h : opClass op = 3) :
    decodeWord (cmdWord op arg) = decodeFrameData (opSource op) (opFunction op) arg := by
  simp [decodeWord, h]

end

/-! ### The opcode byte of a command -/

/-- The command with the argument word as its operand, where it has one (spec/30_encoding.md R59). -/
def Instr.withArgument (arg : Word) : Instr → Instr
  | .ldprobe _ => .ldprobe arg
  | .fdByte _ => .fdByte arg.toNat
  | .fdSide _ => .fdSide arg.toNat
  | i => i

@[simp] theorem Instr.withArgument_opcode (arg : Word) (i : Instr) : (i.withArgument arg).opcode = i.opcode := by
  cases i <;> rfl

/-- An argument word is an index that fits, so the operand is well formed whatever it was before. -/
theorem Instr.withArgument_wellFormed (arg : Word) (i : Instr) : (i.withArgument arg).wellFormed = true := by
  cases i with
  | fdByte | fdSide => exact decide_eq_true arg.isLt
  | _ => rfl

/-- The encoder's argument word carries the whole operand of a well-formed command. -/
theorem Instr.withArgument_argument {i : Instr} (h : i.wellFormed = true) : i.withArgument i.argument = i := by
  cases i with
  | fdByte idx => exact congrArg Instr.fdByte (Nat.mod_eq_of_lt (of_decide_eq_true h))
  | fdSide idx => exact congrArg Instr.fdSide (Nat.mod_eq_of_lt (of_decide_eq_true h))
  | _ => rfl

/-- Beside every opcode byte but those of LDPROBE, FD.BYTE and FD.SIDE the argument word is ignored. -/
theorem Instr.withArgument_eq_self {i : Instr} (arg : Word) (hprobe : i.opcode ≠ 0x02#8) (hbyte : i.opcode ≠ 0xC2#8)
    (hside : i.opcode ≠ 0xC3#8) : i.withArgument arg = i := by
  cases i with
  | ldprobe => exact absurd rfl hprobe
  | fdByte => exact absurd rfl hbyte
  | fdSide => exact absurd rfl hside
  | _ => rfl

/-- A command's opcode byte is read as that command, with the argument word as its operand. -/
theorem decodeWord_opcode (i : Instr) (arg : Word) :
    decodeWord (cmdWord i.opcode arg) = .ok (i.withArgument arg) := by
  cases i with
  | nop | decode | ldprobe | rdstat | rdskip =>
    rw [decodeWord_control arg (opClass_opcode ..)]
    simp [Instr.opcode, decodeControl, Instr.withArgument]
  | hfRaw | hfVersion | hfLayer | hfProtection | hfBitrate | hfSamplerate | hfPad | hfPrivate | hfChmode
  | hfCopyright | hfOriginal | hfEmphasis | hfLegal =>
    rw [decodeWord_headerField arg (opClass_opcode ..)]
    simp [Instr.opcode, decodeHeaderField, Instr.withArgument]
  | flSamples | flSize | flDuration | flSidelen | flCrclen =>
    rw [decodeWord_frameLength arg (opClass_opcode ..)]
    simp [Instr.opcode, decodeFrameLength, Instr.withArgument]
  | fdLen | fdCrc | fdByte | fdSide =>
    rw [decodeWord_frameData arg (opClass_opcode ..)]
    simp [Instr.opcode, decodeFrameData, Instr.withArgument]

theorem decodeWord_of_cmdOp {w : CmdWord} {i : Instr} (h : cmdOp w = i.opcode) :
    decodeWord w = .ok (i.withArgument (cmdArg w)) := by
  rw [← decodeWord_opcode, ← h, cmdWord_parts]

/-! ### Unassigned opcode bytes -/

theorem opSource_eq_probe (op : Byte) : opSource op = .probe ↔ op.toNat / 32 % 2 = 1 := by
  rw [opSource_eq]; simp

/-- The four bullets of R61 by the fields of the opcode byte. -/
theorem unassignedOpcode_iff (op : Byte) : Machine.UnassignedOpcode op ↔
    (opClass op = 0 ∧ (opSource op = .probe ∨ 5 ≤ opFunction op)) ∨ (opClass op = 1 ∧ 13 ≤ opFunction op) ∨
    (opClass op = 2 ∧ 5 ≤ opFunction op) ∨ (opClass op = 3 ∧ (opSource op = .probe ∨ 4 ≤ opFunction op)) := by
  simp only [opClass_eq, opFunction_eq, opSource_eq_probe]

theorem decodeControl_error {src : HdrSrc} {f : Nat} (h : src = .probe ∨ 5 ≤ f) :
    ∃ e, ∀ arg, decodeControl src f arg = .error e := by
  cases src with
  | probe => exact ⟨_, fun _ => rfl⟩
  | frame =>
    obtain ⟨n, rfl⟩ := Nat.exists_eq_add_of_le' (h.resolve_left nofun)
    exact ⟨_, fun _ => rfl⟩

theorem decodeFrameData_error {src : HdrSrc} {f : Nat} (h : src = .probe ∨ 4 ≤ f) :
    ∃ e, ∀ arg, decodeFrameData src f arg = .error e := by
  cases src with
  | probe => exact ⟨_, fun _ => rfl⟩
  | frame =>
    obtain ⟨n, rfl⟩ := Nat.exists_eq_add_of_le' (h.resolve_left nofun)
    exact ⟨_, fun _ => rfl⟩

theorem decodeHeaderField_error (src : HdrSrc) {f : Nat} (h : 13 ≤ f) :
    decodeHeaderField src f = .error .headerFunction := by
  obtain ⟨n, rfl⟩ := Nat.exists_eq_add_of_le' h; rfl

theorem decodeFrameLength_error (src : HdrSrc) {f : Nat} (h : 5 ≤ f) :
    decodeFrameLength src f = .error .lengthFunction := by
  obtain ⟨n, rfl⟩ := Nat.exists_eq_add_of_le' h; rfl

/-- An unassigned opcode byte is an error of its own, whatever the argument word. -/
theorem decodeWord_unassigned {op : Byte} (h : Machine.UnassignedOpcode op) :
    ∃ e, ∀ arg, decodeWord (cmdWord op arg) = .error e := by
  rcases (unassignedOpcode_iff op).mp h with ⟨hc, hsf⟩ | ⟨hc, hf⟩ | ⟨hc, hf⟩ | ⟨hc, hsf⟩
  · simpa only [decodeWord_control _ hc] using decodeControl_error hsf
  · exact ⟨_, fun arg => (decodeWord_headerField arg hc).trans (decodeHeaderField_error _ hf)⟩
  · exact ⟨_, fun arg => (decodeWord_frameLength arg hc).trans (decodeFrameLength_error _ hf)⟩
  · simpa only [decodeWord_frameData _ hc] using decodeFrameData_error hsf

theorem decodeWord_of_unassigned {w : CmdWord} (h : Machine.UnassignedOpcode (cmdOp w)) :
    ∃ e, decodeWord w = .error e := by
  obtain ⟨e, he⟩ := decodeWord_unassigned h
  exact ⟨e, by rw [← he (cmdArg w), cmdWord_parts]⟩

/-! ### Every other opcode byte is a command's -/

section
variable {src : HdrSrc} {f : Nat}

theorem decodeControl_ok (hs : src ≠ .probe) (hf : f < 5) (arg : Word) :
    ∃ i, decodeControl src f arg = .ok i ∧ i.opcode = opcode 0 src (BitVec.ofNat 5 f) := by
  cases src with
  | probe => exact absurd rfl hs
  | frame => interval_cases f <;> exact ⟨_, rfl, rfl⟩

theorem decodeHeaderField_ok (hf : f < 13) :
    ∃ i, decodeHeaderField src f = .ok i ∧ i.opcode = opcode 1 src (BitVec.ofNat 5 f) := by
  interval_cases f <;> exact ⟨_, rfl, rfl⟩

theorem decodeFrameLength_ok (hf : f < 5) :
    ∃ i, decodeFrameLength src f = .ok i ∧ i.opcode = opcode 2 src (BitVec.ofNat 5 f) := by
  interval_cases f <;> exact ⟨_, rfl, rfl⟩

theorem decodeFrameData_ok (hs : src ≠ .probe) (hf : f < 4) (arg : Word) :
    ∃ i, decodeFrameData src f arg = .ok i ∧ i.opcode = opcode 3 src (BitVec.ofNat 5 f) := by
  cases src with
  | probe => exact absurd rfl hs
  | frame => interval_cases f <;> exact ⟨_, rfl, rfl⟩

end

/-- An opcode byte that is not unassigned is some command's. -/
theorem exists_opcode_of_assigned {op : Byte} (h : ¬ Machine.UnassignedOpcode op) : ∃ i : Instr, i.opcode = op := by
  rw [unassignedOpcode_iff] at h
  push Not at h
  obtain ⟨hcontrol, hheader, hlength, hdata⟩ := h
  have hclass : opClass op = 0 ∨ opClass op = 1 ∨ opClass op = 2 ∨ opClass op = 3 := by
    rw [opClass_eq]; omega
  rw [← opcode_parts op]
  rcases hclass with hc | hc | hc | hc <;> rw [hc]
  · obtain ⟨hs, hf⟩ := hcontrol hc
    exact (decodeControl_ok hs hf 0).imp fun _ => And.right
  · exact (decodeHeaderField_ok (hheader hc)).imp fun _ => And.right
  · exact (decodeFrameLength_ok (hlength hc)).imp fun _ => And.right
  · obtain ⟨hs, hf⟩ := hdata hc
    exact (decodeFrameData_ok hs hf 0).imp fun _ => And.right

/-- What a word that is read as a command is: some command's opcode byte, with the argument word as the operand. -/
theorem decodeWord_eq_ok_iff {w : CmdWord} {i : Instr} :
    decodeWord w = .ok i ↔ ∃ j : Instr, cmdOp w = j.opcode ∧ i = j.withArgument (cmdArg w) := by
  constructor
  · intro h
    have hassigned : ¬ Machine.UnassignedOpcode (cmdOp w) := by
      intro hu
      obtain ⟨e, he⟩ := decodeWord_of_unassigned hu
      cases h.symm.trans he
    obtain ⟨j, hj⟩ := exists_opcode_of_assigned hassigned
    rw [decodeWord_of_cmdOp hj.symm] at h
    cases h; exact ⟨j, hj.symm, rfl⟩
  · rintro ⟨j, hj, rfl⟩
    exact decodeWord_of_cmdOp hj

/-! ### The statements about the encoding -/

/-- Settles O1: the opcode byte is read as the command with the argument word as its operand, and the encoder's
argument word is the operand. -/
theorem decodeOfEncodeIsTheCommand : Obligations.DecodeOfEncodeIsTheCommand := by
  intro i hi
  rw [encode, decodeWord_opcode, Instr.withArgument_argument hi]

/-- A word with the opcode byte of `j` encodes back to itself, if `j` takes the argument word as its operand. -/
theorem encode_of_decodeWord {w : CmdWord} {i j : Instr} (h : decodeWord w = .ok i) (hop : cmdOp w = j.opcode)
    (harg : ∀ arg, (j.withArgument arg).argument = arg) : encode i = w := by
  rw [decodeWord_of_cmdOp hop] at h
  cases h
  rw [encode, Instr.withArgument_opcode, harg, ← hop, cmdWord_parts]

/-- Settles O2. -/
theorem encodeOfDecodeIsTheWord : Obligations.EncodeOfDecodeIsTheWord := by
  intro w i h
  obtain ⟨j, hop, rfl⟩ := decodeWord_eq_ok_iff.mp h
  refine ⟨j.withArgument_wellFormed _, by rw [cmdOp_encode, Instr.withArgument_opcode, hop], ?_⟩
  rintro (hprobe | hbyte | hside)
  · exact encode_of_decodeWord (j := .ldprobe 0) h hprobe fun _ => rfl
  · exact encode_of_decodeWord (j := .fdByte 0) h hbyte fun arg => by simp [Instr.withArgument, Instr.argument]
  · exact encode_of_decodeWord (j := .fdSide 0) h hside fun arg => by simp [Instr.withArgument, Instr.argument]

/-- Settles O4: an opcode byte is unassigned, an error whatever the argument word, or a command's. -/
theorem argumentWordIsWholeOrIgnored : Obligations.ArgumentWordIsWholeOrIgnored := by
  intro op a b
  refine ⟨decodeWord_opcode (.ldprobe 0) a, decodeWord_opcode (.fdByte 0) a, decodeWord_opcode (.fdSide 0) a, ?_⟩
  intro hprobe hbyte hside
  by_cases hu : Machine.UnassignedOpcode op
  · obtain ⟨e, he⟩ := decodeWord_unassigned hu
    rw [he a, he b]
  · obtain ⟨i, rfl⟩ := exists_opcode_of_assigned hu
    rw [decodeWord_opcode, decodeWord_opcode, Instr.withArgument_eq_self a hprobe hbyte hside,
      Instr.withArgument_eq_self b hprobe hbyte hside]

/-- Settles O5: each written-out word but the last is its command's encoding. -/
theorem writtenOutWordsDecode : Obligations.WrittenOutWordsDecode :=
  ⟨decodeOfEncodeIsTheCommand .nop rfl, decodeOfEncodeIsTheCommand .decode rfl,
    decodeOfEncodeIsTheCommand (.ldprobe 0xFFFB9000#32) rfl, decodeOfEncodeIsTheCommand (.hfVersion .frame) rfl,
    decodeOfEncodeIsTheCommand (.hfLegal .probe) rfl, decodeOfEncodeIsTheCommand (.flSize .probe) rfl,
    decodeOfEncodeIsTheCommand (.flCrclen .frame) rfl, decodeOfEncodeIsTheCommand (.fdByte 417) rfl,
    decodeOfEncodeIsTheCommand (.fdSide 9) rfl, rfl⟩

end Sys2Proof
end

section
/-! PROOFS (spec/30_encoding.md R55, R56, R61, R62). A command on the host's turn: its effect and its response. -/

namespace Sys2Proof.Machine

/-! ### The host's turn -/

/-- On the host's turn a step is the host's turn. -/
theorem step_host {s : State} {rest : List Turn} (hr : s.R31) (hs : s.sched = .host :: rest) :
    step s = hostTurn (s.begun rest) := by
  unfold step nextTurn
  rw [hs]
  exact inReachable_eq hr _

theorem hostTurn_issue {s : State} {w : CmdWord} {acts : List HostAct} (hh : s.host = .issue w :: acts) :
    hostTurn s = runCommand w { s with host := acts } := by
  simp only [hostTurn, hh]

theorem hostTurn_wait {s : State} {acts : List HostAct} (hh : s.host = .wait :: acts) :
    hostTurn s = runWait acts s := by
  simp only [hostTurn, hh]

theorem runCommand_ok {w : CmdWord} {i : Instr} (h : decodeWord w = .ok i) (s : State) : runCommand w s = exec i s := by
  simp only [runCommand, h]

theorem runCommand_error {w : CmdWord} {e : DecodeError} (h : decodeWord w = .error e) (s : State) :
    runCommand w s = .next (s.refuse .illegalOp) := by
  simp only [runCommand, h]

/-- Settles O6. -/
theorem stepRunsTheIssuedCommand : Obligations.StepRunsTheIssuedCommand := by
  intro s w i rest acts hr hs hh hw
  rw [step_host hr hs, hostTurn_issue (s := s.begun rest) hh, runCommand_ok hw]

/-- Settles O7: `rsp_data[0]` of RDSTAT is BUSY. -/
theorem waitPollsStatusUntilIdle : Obligations.WaitPollsStatusUntilIdle := by
  intro s rest acts hr hs hh
  rw [step_host hr hs, hostTurn_wait (s := s.begun rest) hh, runWait_eq, State.status_busy]
  by_cases hi : s.phase = .idle
  · have hb : (s.begun rest).busy = false := s.busy_eq_false.mpr hi
    rw [hb, if_pos hi]; rfl
  · have hb : (s.begun rest).busy = true := s.busy_eq_true.mpr hi
    rw [hb, if_neg hi]; rfl

/-- The number of unassigned opcode bytes in class `c` (spec/30_encoding.md R61). -/
def unassignedInClass (c : Nat) : Nat :=
  (List.range' (64 * c) 64).countP fun n => decide (UnassignedOpcode (BitVec.ofNat 8 n))

theorem unassignedInClass_eq : (List.range 4).map unassignedInClass = [59, 38, 54, 60] := by decide

/-- `m` blocks of `n` numbers each, one after the other. -/
theorem range_mul_eq_flatMap (m n : Nat) :
    List.range (m * n) = (List.range m).flatMap fun c => List.range' (n * c) n := by
  induction m with
  | zero => rw [Nat.zero_mul]; rfl
  | succ m ih =>
    rw [List.range_succ, List.flatMap_append, ← ih, List.flatMap_singleton, List.range_eq_range', List.range_eq_range',
      Nat.succ_mul, ← List.range'_append_1, Nat.zero_add, Nat.mul_comm n m]

/-- The count of R61 is the sum over the four classes. -/
theorem unassignedOpcode_count :
    ((List.range 256).filter fun n => decide (UnassignedOpcode (BitVec.ofNat 8 n))).length = 211 := by
  have hclasses : List.range 256 = (List.range 4).flatMap fun c => List.range' (64 * c) 64 :=
    range_mul_eq_flatMap 4 64
  rw [← List.countP_eq_length_filter, hclasses, List.countP_flatMap]
  exact congrArg List.sum unassignedInClass_eq

/-- Settles O3: the unassigned bytes are the ones that are no command's. -/
theorem unassignedOpcodesAnswerIllegalOp : Obligations.UnassignedOpcodesAnswerIllegalOp := by
  refine ⟨unassignedOpcode_count, fun op arg => ⟨?_, ?_⟩, ?_⟩
  · rintro ⟨i, hi⟩ hu
    obtain ⟨e, he⟩ := decodeWord_unassigned hu
    cases hi.symm.trans (he arg)
  · intro hu
    obtain ⟨i, rfl⟩ := exists_opcode_of_assigned hu
    exact ⟨_, decodeWord_opcode i arg⟩
  · intro s w rest acts hr hs hh hu
    obtain ⟨e, he⟩ := decodeWord_of_unassigned hu
    rw [step_host hr hs, hostTurn_issue (s := s.begun rest) hh, runCommand_error he]
    rfl

/-! ### The response of a command -/

/-- Where the outcome is a next state, it answers OK, or it is `s` with a code and data 0 as the response. -/
def AnswersOkOrRefuses (s : State) : Outcome → Prop
  | .next t => (∃ d, t.rsp = some ⟨.ok, d⟩) ∨ ∃ c, t = s.refuse c
  | .fault _ | .refused _ => True

section
variable {s : State}

theorem whenFrameValid_answers {k : Outcome} (hk : AnswersOkOrRefuses s k) :
    AnswersOkOrRefuses s (whenFrameValid s k) := by
  unfold whenFrameValid
  split
  · exact hk
  · exact .inr ⟨_, rfl⟩

theorem withFrameHeader_answers {k : Word → Outcome} (hk : ∀ h, AnswersOkOrRefuses s (k h)) :
    AnswersOkOrRefuses s (withFrameHeader s k) := by
  unfold withFrameHeader
  split
  · exact hk _
  · trivial

theorem withHeader_answers {k : Word → Outcome} (src : HdrSrc) (hk : ∀ h, AnswersOkOrRefuses s (k h)) :
    AnswersOkOrRefuses s (withHeader src s k) := by
  cases src with
  | probe => exact hk s.probe
  | frame => exact whenFrameValid_answers (withFrameHeader_answers hk)

theorem hfCommand_answers (value : Word → Word) (src : HdrSrc) : AnswersOkOrRefuses s (hfCommand value src s) :=
  withHeader_answers src fun _ => .inl ⟨_, rfl⟩

theorem flCommand_answers (value : Word → Option Nat) (src : HdrSrc) :
    AnswersOkOrRefuses s (flCommand value src s) := by
  refine withHeader_answers src fun h => ?_
  split
  · split
    · exact .inl ⟨_, rfl⟩
    · trivial
  · exact .inr ⟨_, rfl⟩

theorem respondByte_answers (i : Nat) : AnswersOkOrRefuses s (respondByte s i) := by
  unfold respondByte
  split
  · exact .inl ⟨_, rfl⟩
  · trivial

theorem execDecode_answers : AnswersOkOrRefuses s (execDecode s) := by
  unfold execDecode
  split
  · exact .inr ⟨_, rfl⟩
  · exact .inl ⟨_, rfl⟩

theorem execFdCrc_answers : AnswersOkOrRefuses s (execFdCrc s) := by
  refine whenFrameValid_answers (withFrameHeader_answers fun h => ?_)
  split
  · split
    · exact .inl ⟨_, rfl⟩
    · trivial
  · exact .inl ⟨_, rfl⟩

theorem execFdByte_answers (idx : Nat) : AnswersOkOrRefuses s (execFdByte idx s) := by
  refine whenFrameValid_answers ?_
  split
  · exact .inr ⟨_, rfl⟩
  · exact respondByte_answers idx

theorem execFdSide_answers (idx : Nat) : AnswersOkOrRefuses s (execFdSide idx s) := by
  refine whenFrameValid_answers (withFrameHeader_answers fun h => ?_)
  split
  · trivial
  · split
    · exact .inr ⟨_, rfl⟩
    · exact respondByte_answers _

end

/-- Every command answers OK, or refuses with data 0 and changes nothing (spec/30_encoding.md R56). -/
theorem exec_answers (i : Instr) (s : State) : AnswersOkOrRefuses s (exec i s) := by
  cases i with
  | nop | ldprobe | rdstat | rdskip => exact .inl ⟨_, rfl⟩
  | decode => exact execDecode_answers
  | hfRaw | hfVersion | hfLayer | hfProtection | hfBitrate | hfSamplerate | hfPad | hfPrivate | hfChmode
  | hfCopyright | hfOriginal | hfEmphasis | hfLegal => unfold exec; exact hfCommand_answers _ _
  | flSamples | flSize | flDuration | flSidelen | flCrclen => unfold exec; exact flCommand_answers _ _
  | fdLen => exact whenFrameValid_answers (.inl ⟨_, rfl⟩)
  | fdCrc => exact execFdCrc_answers
  | fdByte idx => exact execFdByte_answers idx
  | fdSide idx => exact execFdSide_answers idx

/-- Settles O32. -/
theorem refusedCommandsChangeNothing : Obligations.RefusedCommandsChangeNothing := by
  intro i s t h
  have ha := exec_answers i s
  rw [h] at ha
  rcases ha with ⟨d, hd⟩ | ⟨c, rfl⟩
  · exact ⟨_, hd, fun hne => absurd rfl hne⟩
  · exact ⟨_, rfl, fun _ => ⟨rfl, rfl⟩⟩

end Sys2Proof.Machine
end

section
/-! PROOFS (spec/40_header_fields.md). The fields of a header word as numbers, the two rates by their ROM entries, what
an HF command answers, and what legality depends on. -/

namespace Sys2Proof.Machine

/-! ### The frame prologue -/

theorem whenFrameValid_of_not {s : State} (hv : s.frameValid = false) (k : Outcome) :
    whenFrameValid s k = .next (s.refuse .noFrame) := by
  rw [whenFrameValid, hv]; rfl

/-- Settles O14: each of these commands begins with the check of FRAME_VALID. -/
theorem frameCommandsWithoutFrameAnswerNoFrame : Obligations.FrameCommandsWithoutFrameAnswerNoFrame := by
  intro s idx hv i hi
  fin_cases hi <;> exact whenFrameValid_of_not hv _

/-- Settles O33: a command only answers, but LDPROBE and an accepted DECODE. -/
theorem readCommandsChangeOnlyTheResponse : Obligations.ReadCommandsChangeOnlyTheResponse := by
  intro i s t hdecode hprobe h
  rcases exec_next h with ⟨r, rfl⟩ | ⟨w, hw, -⟩ | ⟨hd, -⟩
  · rfl
  · exact absurd hw (hprobe w)
  · exact absurd hd hdecode

/-! ### The selected header -/

section
variable {src : HdrSrc} {s : State} {h : Word}

theorem State.holdsHeader_iff : s.HoldsHeader h ↔ s.frameHeader = some h := by
  simp only [State.HoldsHeader, State.frameHeader_eq_some, ← headerWord_toNat, BitVec.toNat_inj, eq_comm (a := h)]

/-- A command works on the header word it selects (spec/30_encoding.md R59). -/
theorem withHeader_of_selected (hs : HeaderSelected src s h) (k : Word → Outcome) : withHeader src s k = k h := by
  cases src with
  | probe => exact congrArg k hs
  | frame =>
    obtain ⟨hv, hh⟩ := hs
    rw [withHeader, whenFrameValid, if_pos hv, withFrameHeader, State.holdsHeader_iff.mp hh]

/-- An HF command answers its value of the header word it selects (spec/40_header_fields.md R79). -/
theorem hfCommand_of_selected (hs : HeaderSelected src s h) {value : Word → Word} {n : Nat}
    (hn : (value h).toNat = n) : hfCommand value src s = .next (s.okWith n) := by
  rw [hfCommand, withHeader_of_selected hs, ← hn, State.okWith, BitVec.ofNat_toNat, BitVec.setWidth_eq]; rfl

end

/-! ### The fields as numbers (spec/40_header_fields.md R64 to R67, R71 to R76) -/

section
variable (h : Word)

theorem extractLsb'_toNat_div (start len : Nat) :
    (h.extractLsb' start len).toNat = h.toNat / 2 ^ start % 2 ^ len := by
  rw [BitVec.extractLsb'_toNat, Nat.shiftRight_eq_div_pow]

theorem version_toNat : (version h).toNat = h.toNat / 2 ^ 19 % 4 := extractLsb'_toNat_div h 19 2
theorem layer_toNat : (layer h).toNat = h.toNat / 2 ^ 17 % 4 := extractLsb'_toNat_div h 17 2
theorem brIndex_toNat : (brIndex h).toNat = h.toNat / 2 ^ 12 % 16 := extractLsb'_toNat_div h 12 4
theorem srIndex_toNat : (srIndex h).toNat = h.toNat / 2 ^ 10 % 4 := extractLsb'_toNat_div h 10 2
theorem chmode_toNat : (chmode h).toNat = h.toNat / 2 ^ 6 % 4 := extractLsb'_toNat_div h 6 2

theorem emphasis_toNat : (emphasis h).toNat = h.toNat % 4 := by
  rw [emphasis, extractLsb'_toNat_div, Nat.pow_zero, Nat.div_one]; rfl

theorem version_eq_ofNat : version h = BitVec.ofNat 2 (h.toNat / 2 ^ 19) := BitVec.eq_of_toNat_eq (version_toNat h)
theorem layer_eq_ofNat : layer h = BitVec.ofNat 2 (h.toNat / 2 ^ 17) := BitVec.eq_of_toNat_eq (layer_toNat h)
theorem brIndex_eq_ofNat : brIndex h = BitVec.ofNat 4 (h.toNat / 2 ^ 12) := BitVec.eq_of_toNat_eq (brIndex_toNat h)
theorem srIndex_eq_ofNat : srIndex h = BitVec.ofNat 2 (h.toNat / 2 ^ 10) := BitVec.eq_of_toNat_eq (srIndex_toNat h)

/-- The sync word is the eleven top bits (spec/40_header_fields.md R63). -/
theorem syncOk_iff : syncOk h = true ↔ h.toNat / 2 ^ 21 = 0x7FF := by
  have hlt := h.isLt
  simp only [syncOk, Bool.and_eq_true, beq_iff_eq, ← BitVec.toNat_inj, extractLsb'_toNat_div, BitVec.toNat_ofNat]
  omega

theorem version_eq_reserved_iff : version h = reservedVersion ↔ h.toNat / 2 ^ 19 % 4 = 1 := by
  rw [← BitVec.toNat_inj, version_toNat]; rfl

theorem layer_eq_reserved_iff : layer h = reservedLayer ↔ h.toNat / 2 ^ 17 % 4 = 0 := by
  rw [← BitVec.toNat_inj, layer_toNat]; rfl

theorem emphasis_eq_reserved_iff : emphasis h = reservedEmphasis ↔ h.toNat % 4 = 2 := by
  rw [← BitVec.toNat_inj, emphasis_toNat]; rfl

theorem flagWord_toNat (b : Bool) : (flagWord b).toNat = bit b := by cases b <;> rfl

/-- A one-bit field, zero-extended. -/
theorem flagWord_getLsbD_toNat (k : Nat) : (flagWord (h.getLsbD k)).toNat = h.toNat / 2 ^ k % 2 := by
  rw [flagWord_toNat, BitVec.getLsbD, Nat.testBit_eq_decide_div_mod_eq]
  rcases Nat.mod_two_eq_zero_or_one (h.toNat / 2 ^ k) with hk | hk <;> rw [hk] <;> rfl

/-- A two-bit field, zero-extended. -/
theorem setWidth_field_toNat (f : BitVec 2) : (f.setWidth 32).toNat = f.toNat :=
  BitVec.toNat_setWidth_of_le (by decide)

end

/-- Settles O13: each command's value is a field of the header word, as the number above. -/
theorem headerFieldCommandsAnswerTheirBits : Obligations.HeaderFieldCommandsAnswerTheirBits := by
  intro src s h hs
  unfold exec
  exact ⟨hfCommand_of_selected hs rfl,
    hfCommand_of_selected hs ((setWidth_field_toNat _).trans (version_toNat h)),
    hfCommand_of_selected hs ((setWidth_field_toNat _).trans (layer_toNat h)),
    hfCommand_of_selected hs (flagWord_getLsbD_toNat h 16),
    hfCommand_of_selected hs (flagWord_getLsbD_toNat h 9),
    hfCommand_of_selected hs (flagWord_getLsbD_toNat h 8),
    hfCommand_of_selected hs ((setWidth_field_toNat _).trans (chmode_toNat h)),
    hfCommand_of_selected hs (flagWord_getLsbD_toNat h 3),
    hfCommand_of_selected hs (flagWord_getLsbD_toNat h 2),
    hfCommand_of_selected hs ((setWidth_field_toNat _).trans (emphasis_toNat h))⟩

/-! ### The bitrate (spec/40_header_fields.md R69) -/

section
variable {v l : BitVec 2} {i : BitVec 4}

/-- A ROM entry of 9 bits times 1000 fits 32 bits. -/
theorem setWidth_mul_thousand_toNat (e : BitVec 9) : (e.setWidth 32 * 1000#32).toNat = e.toNat * 1000 := by
  have he : e.toNat < 512 := e.isLt
  rw [BitVec.toNat_mul, BitVec.toNat_setWidth_of_le (by decide), BitVec.toNat_ofNat]
  omega

theorem bitrateOf_toNat (v l : BitVec 2) (i : BitVec 4) : (bitrateOf v l i).toNat =
    if i.toNat = 15 then 0xFFFFFFFF
    else if (romBr v l i).toNat = 0 then 0xFFFFFFFF else (romBr v l i).toNat * 1000 := by
  have hi : i = 15#4 ↔ i.toNat = 15 := BitVec.toNat_inj.symm
  have he : romBr v l i = 0#9 ↔ (romBr v l i).toNat = 0 := BitVec.toNat_inj.symm
  simp only [bitrateOf, hi, he, apply_ite BitVec.toNat, setWidth_mul_thousand_toNat]
  rfl

theorem bitrateOf_eq_invalid (he : romBr v l i = 0#9) : bitrateOf v l i = Config.invalid := by
  rw [bitrateOf, if_pos he, ite_self]

/-- Where the bitrate is valid it is the ROM entry times 1000, and the index is not 15 and the entry not 0. -/
theorem bitrateOf_valid (hb : bitrateOf v l i ≠ Config.invalid) :
    i ≠ 15#4 ∧ romBr v l i ≠ 0#9 ∧ (bitrateOf v l i).toNat = (romBr v l i).toNat * 1000 := by
  have he : romBr v l i ≠ 0#9 := fun he => hb (bitrateOf_eq_invalid he)
  have hi : i ≠ 15#4 := fun hi => hb (by rw [bitrateOf, if_pos hi])
  exact ⟨hi, he, by rw [bitrateOf, if_neg hi, if_neg he, setWidth_mul_thousand_toNat]⟩

theorem romBr_index_zero (v l : BitVec 2) : romBr v l 0#4 = 0#9 := by
  revert v l; decide

/-- The entries of ROM_BR but 0 lie between 8 and 448 kbit/s (spec/10_state.md R26). -/
theorem romBr_bounds (he : romBr v l i ≠ 0#9) : 8 ≤ (romBr v l i).toNat ∧ (romBr v l i).toNat ≤ 448 := by
  revert v l i; decide

theorem bitrateOf_bounds (hb : bitrateOf v l i ≠ Config.invalid) :
    8000 ≤ (bitrateOf v l i).toNat ∧ (bitrateOf v l i).toNat ≤ 448000 := by
  obtain ⟨-, he, hn⟩ := bitrateOf_valid hb
  obtain ⟨hlow, hhigh⟩ := romBr_bounds he
  omega

end

theorem bitrateOf_mpeg25 (l : BitVec 2) (i : BitVec 4) : bitrateOf mpeg25 l i = bitrateOf mpeg2 l i := by
  rw [bitrateOf, romBr_mpeg25]; rfl

theorem brIndex_ne_zero_of_legal {h : Word} (hl : legal h = true) : brIndex h ≠ 0#4 := by
  obtain ⟨-, -, -, -, -, hb⟩ := (legal_iff h).mp hl
  intro hi
  exact hb (bitrateOf_eq_invalid (hi ▸ romBr_index_zero _ _))

/-- Settles O15: the rate by its ROM entry, INVALID where that entry is 0, and the bounds of the other entries. -/
theorem bitrateCommandAnswersTheRate : Obligations.BitrateCommandAnswersTheRate := by
  refine ⟨fun src s h hs => hfCommand_of_selected hs ?_, fun v l => bitrateOf_eq_invalid (romBr_index_zero v l),
    fun h hi => ?_, fun l i => bitrateOf_eq_invalid (romBr_reservedVersion l i),
    fun v i => bitrateOf_eq_invalid (romBr_reservedLayer v i), bitrateOf_mpeg25, fun h hb => bitrateOf_bounds hb⟩
  · rw [bitrate, bitrateOf_toNat, brIndex_toNat, version_eq_ofNat, layer_eq_ofNat, brIndex_eq_ofNat]
  · refine Bool.eq_false_of_not_eq_true fun hl => brIndex_ne_zero_of_legal hl ?_
    exact BitVec.eq_of_toNat_eq ((brIndex_toNat h).trans hi)

/-! ### The sample rate (spec/40_header_fields.md R70) -/

theorem samplerateOf_toNat (v i : BitVec 2) :
    (samplerateOf v i).toNat = if i.toNat = 3 then 0xFFFFFFFF else (romSr v i).toNat := by
  have hi : i = 3#2 ↔ i.toNat = 3 := BitVec.toNat_inj.symm
  simp only [samplerateOf, hi, apply_ite BitVec.toNat, BitVec.toNat_setWidth_of_le (show 16 ≤ 32 by decide)]
  rfl

/-- A ROM entry of 16 bits is never INVALID. -/
theorem samplerateOf_eq_invalid_iff (v i : BitVec 2) : samplerateOf v i = Config.invalid ↔ i.toNat = 3 := by
  have he : (romSr v i).toNat < 2 ^ 16 := (romSr v i).isLt
  rw [← BitVec.toNat_inj, samplerateOf_toNat, show Config.invalid.toNat = 0xFFFFFFFF from rfl]
  split
  · exact iff_of_true rfl ‹_›
  · exact iff_of_false (by omega) ‹_›

/-- The reserved version has no sample rate (spec/10_state.md R27). -/
theorem romSr_reservedVersion (i : BitVec 2) : romSr reservedVersion i = 0#16 := by
  revert i; decide

theorem samplerateOf_reservedVersion {i : BitVec 2} (hi : i ≠ 3#2) : samplerateOf reservedVersion i = 0#32 := by
  rw [samplerateOf, if_neg hi, romSr_reservedVersion]; rfl

/-- Settles O16: the rate by its ROM entry, which is never INVALID and is 0 for the reserved version. -/
theorem samplerateCommandAnswersTheRate : Obligations.SamplerateCommandAnswersTheRate := by
  refine ⟨fun src s h hs => hfCommand_of_selected hs ?_, fun h => ?_, fun h hv hi => ⟨?_, ?_⟩⟩
  · rw [samplerate, samplerateOf_toNat, srIndex_toNat, version_eq_ofNat, srIndex_eq_ofNat]
  · rw [← srIndex_toNat]; exact samplerateOf_eq_invalid_iff _ _
  · rw [samplerate, (version_eq_reserved_iff h).mpr hv]
    exact samplerateOf_reservedVersion fun h3 => hi ((srIndex_toNat h).symm.trans (congrArg BitVec.toNat h3))
  · refine Bool.eq_false_of_not_eq_true fun hl => ?_
    obtain ⟨-, -, -, hne, -⟩ := (legal_iff h).mp hl
    exact hne ((version_eq_reserved_iff h).mpr hv)

/-! ### Legality (spec/40_header_fields.md R77, R78) -/

/-- A field on which a mask is all ones is the same in two words that agree under the mask. -/
theorem extractLsb'_eq_of_and_eq {g h m : Word} (hm : g &&& m = h &&& m) {start len : Nat}
    (hones : m.extractLsb' start len = BitVec.allOnes len) : g.extractLsb' start len = h.extractLsb' start len := by
  have hfield := congrArg (BitVec.extractLsb' start len) hm
  rwa [BitVec.extractLsb'_and, BitVec.extractLsb'_and, hones, BitVec.and_allOnes, BitVec.and_allOnes] at hfield

/-- Legality depends on the sync word, the version, the layer, the two indices and the emphasis alone. -/
theorem legal_congr {g h : Word} (hsync : syncOk g = syncOk h) (hv : version g = version h) (hl : layer g = layer h)
    (hb : brIndex g = brIndex h) (hs : srIndex g = srIndex h) (he : emphasis g = emphasis h) : legal g = legal h := by
  simp only [legal, samplerate, bitrate, hsync, hv, hl, hb, hs, he]

theorem legal_eq_of_mask {g h : Word} (hm : g &&& 0xFFFEFC03#32 = h &&& 0xFFFEFC03#32) : legal g = legal h := by
  have hbyte : g.extractLsb' 24 8 = h.extractLsb' 24 8 := extractLsb'_eq_of_and_eq hm (by decide)
  have hthree : g.extractLsb' 21 3 = h.extractLsb' 21 3 := extractLsb'_eq_of_and_eq hm (by decide)
  exact legal_congr (by rw [syncOk, syncOk, hbyte, hthree]) (extractLsb'_eq_of_and_eq hm (by decide))
    (extractLsb'_eq_of_and_eq hm (by decide)) (extractLsb'_eq_of_and_eq hm (by decide))
    (extractLsb'_eq_of_and_eq hm (by decide)) (extractLsb'_eq_of_and_eq hm (by decide))

/-- The answer of HF.LEGAL, from the six conditions in any form. -/
theorem flagWord_toNat_of_iff {b : Bool} {p : Prop} [Decidable p] (hp : b = true ↔ p) :
    (flagWord b).toNat = if p then 1 else 0 := by
  simp only [flagWord_toNat, bit, hp]

/-- Settles O18: the six conditions as numbers, and the mask covers every field they read. -/
theorem legalCommandAnswersTheSixConditions : Obligations.LegalCommandAnswersTheSixConditions := by
  unfold Obligations.LegalCommandAnswersTheSixConditions exec
  refine ⟨fun src s h hs => hfCommand_of_selected hs (flagWord_toNat_of_iff ?_), fun g h => legal_eq_of_mask⟩
  rw [legal_iff, Ne, Ne, Ne, syncOk_iff, emphasis_eq_reserved_iff, layer_eq_reserved_iff, version_eq_reserved_iff]
  rfl

/-- The sample rates of ROM_SR but that of the reserved version (spec/10_state.md R27). -/
theorem samplerateOf_mem {v i : BitVec 2} (hv : v ≠ reservedVersion) (hs : samplerateOf v i ≠ Config.invalid) :
    (samplerateOf v i).toNat ∈ [8000, 11025, 12000, 16000, 22050, 24000, 32000, 44100, 48000] := by
  revert v i; decide

theorem eq_of_ne_reservedVersion {v : BitVec 2} (hv : v ≠ reservedVersion) : v = mpeg25 ∨ v = mpeg2 ∨ v = mpeg1 := by
  revert v; decide

theorem eq_of_ne_reservedLayer {l : BitVec 2} (hl : l ≠ reservedLayer) : l = layerIII ∨ l = layerII ∨ l = layerI := by
  revert l; decide

/-- Settles O19: a legal header has a valid rate of each kind, so its ROM entries are the written ones. -/
theorem legalHeadersHaveRates : Obligations.LegalHeadersHaveRates := by
  intro h hl
  obtain ⟨-, -, hlayer, hversion, hs, hb⟩ := (legal_iff h).mp hl
  obtain ⟨hi15, -, hrate⟩ := bitrateOf_valid hb
  have hi0 := brIndex_ne_zero_of_legal hl
  exact ⟨samplerateOf_mem hversion hs, hrate.trans (Nat.mul_comm _ _), by bv_omega, by bv_omega,
    (bitrateOf_bounds hb).1, eq_of_ne_reservedVersion hversion, eq_of_ne_reservedLayer hlayer⟩

/-- Settles O20: R31 item 1 holds the frame's header legal. -/
theorem frameHeadersAreLegal : Obligations.FrameHeadersAreLegal := by
  intro s ⟨⟨hframe, _⟩, _⟩ hv
  obtain ⟨-, -, hlegal, -⟩ := hframe hv
  obtain ⟨w, hw, hl⟩ := State.headerLegal_iff.mp hlegal
  have hs : HeaderSelected .frame s w := ⟨hv, State.holdsHeader_iff.mpr hw⟩
  exact hfCommand_of_selected hs (by rw [hl]; rfl)

end Sys2Proof.Machine
end

section
/-! PROOFS (spec/41_frame_length.md). What an FL command answers, the frame sizes as the table, the short frames, and
the durations as the table. -/

namespace Sys2Proof.Machine

/-! ### The FL commands (spec/41_frame_length.md R93 to R96, R106) -/

section
variable {src : HdrSrc} {s : State} {h : Word} {value : Word → Option Nat}

/-- An FL command answers its value of a legal header (spec/41_frame_length.md R106). -/
theorem flCommand_of_legal (hs : HeaderSelected src s h) (hl : legal h = true) {n : Nat} (hn : value h = some n) :
    flCommand value src s = .next (s.okWith n) := by
  rw [flCommand, withHeader_of_selected hs, if_pos hl, hn]; rfl

theorem flCommand_of_not_legal (hs : HeaderSelected src s h) (hl : legal h = false) :
    flCommand value src s = .next (s.refusedWith .notLegal) := by
  rw [flCommand, withHeader_of_selected hs, hl]; rfl

end

section
variable (h : Word)

/-- A one-bit field is set where its bit of the number is 1. -/
theorem getLsbD_eq_true_iff (k : Nat) : h.getLsbD k = true ↔ h.toNat / 2 ^ k % 2 = 1 := by
  rw [BitVec.getLsbD, Nat.testBit_eq_decide_div_mod_eq, decide_eq_true_iff]

theorem pad_iff : pad h = true ↔ h.toNat / 2 ^ 9 % 2 = 1 := getLsbD_eq_true_iff h 9

theorem crcPresent_iff : crcPresent h = true ↔ h.toNat / 2 ^ 16 % 2 = 0 := by
  rw [crcPresent, Bool.not_eq_true', ← Bool.not_eq_true, protection, getLsbD_eq_true_iff]
  omega

theorem layer_eq_layerI_iff : layer h = layerI ↔ h.toNat / 2 ^ 17 % 4 = 3 := by
  rw [← BitVec.toNat_inj, layer_toNat]; rfl

theorem version_eq_mpeg1_iff : version h = mpeg1 ↔ h.toNat / 2 ^ 19 % 4 = 3 := by
  rw [← BitVec.toNat_inj, version_toNat]; rfl

theorem chmode_eq_singleChannel_iff : chmode h = singleChannel ↔ h.toNat / 2 ^ 6 % 4 = 3 := by
  rw [← BitVec.toNat_inj, chmode_toNat]; rfl

theorem slot_eq : slot h = if layer h = layerI then 4 else 1 := by
  rw [slot, romSlot, apply_ite BitVec.toNat]; rfl

theorem padBytes_eq :
    padBytes h = if h.toNat / 2 ^ 9 % 2 = 1 then (if layer h = layerI then 4 else 1) else 0 := by
  simp only [padBytes, pad_iff, slot_eq]

theorem crcLen_eq : crcLen h = if h.toNat / 2 ^ 16 % 2 = 0 then 2 else 0 := by
  simp only [crcLen, crcPresent_iff]

end

/-- MPEG1 has side-info lengths of its own, and the other versions that are not reserved share theirs
(spec/41_frame_length.md R94). -/
theorem sideLen_of_ne_reserved {h : Word} (hv : version h ≠ reservedVersion) : sideLen h = some (
    if version h = mpeg1 then (if chmode h = singleChannel then 17 else 32)
    else (if chmode h = singleChannel then 9 else 17)) := by
  unfold sideLen
  rcases eq_of_ne_reservedVersion hv with hv | hv | hv <;> rw [hv] <;> rfl

/-- Settles O21: each command's function by the numbers of the header's fields. -/
theorem frameLengthCommandsAnswerTheirFunctions : Obligations.FrameLengthCommandsAnswerTheirFunctions := by
  intro src s h hs
  refine ⟨fun hl i hi => ?_, fun hl => ?_⟩
  · fin_cases hi <;> (unfold exec; exact flCommand_of_not_legal hs hl)
  · obtain ⟨-, -, -, hv, -⟩ := (legal_iff h).mp hl
    have hsize := padBytes_eq h
    have hside := sideLen_of_ne_reserved hv
    simp only [layer_eq_layerI_iff] at hsize
    simp only [version_eq_mpeg1_iff, chmode_eq_singleChannel_iff] at hside
    unfold exec
    exact ⟨flCommand_of_legal hs hl rfl,
      flCommand_of_legal hs hl (congrArg (fun n => some (_ + n)) hsize),
      flCommand_of_legal hs hl rfl, flCommand_of_legal hs hl hside,
      flCommand_of_legal hs hl (congrArg some (crcLen_eq h))⟩

/-! ### The table of frame sizes (spec/41_frame_length.md R100, R101) -/

/-- `size(H)` is that of the unpadded header with the pad slot added. -/
theorem frameSize_eq_unpadded_add (h : Word) :
    frameSize h = sizeOfFields (version h) (layer h) (brIndex h) (srIndex h) false + padBytes h := rfl

/-- The table has a row for every version, layer and sample rate a legal header can have. -/
theorem exists_sizeTable_row {v l s : BitVec 2} (hv : v ≠ reservedVersion) (hl : l ≠ reservedLayer)
    (hs : samplerateOf v s ≠ Config.invalid) : ∃ row ∈ sizeTable, row.1 = v ∧ row.2.1 = l ∧ row.2.2.1 = s := by
  revert v l s; decide

/-- Each row of the table holds the unpadded sizes of its bitrates. -/
theorem sizeTable_row_eq : ∀ row ∈ sizeTable, ∀ i : BitVec 4, i ≠ 0#4 → i ≠ 15#4 →
    sizeOfFields row.1 row.2.1 i row.2.2.1 false = row.2.2.2.getD (i.toNat - 1) 0 := by
  decide

theorem le_sizeTable_entry : ∀ row ∈ sizeTable, ∀ i : BitVec 4, i ≠ 0#4 → i ≠ 15#4 →
    24 ≤ row.2.2.2.getD (i.toNat - 1) 0 := by
  decide

/-- The unpadded size of a legal header stands in the table. -/
theorem exists_sizeTable_entry {h : Word} (hl : legal h = true) : ∃ row ∈ sizeTable,
    row.1 = version h ∧ row.2.1 = layer h ∧ row.2.2.1 = srIndex h ∧
    frameSize h = row.2.2.2.getD ((brIndex h).toNat - 1) 0 + padBytes h ∧
    24 ≤ row.2.2.2.getD ((brIndex h).toNat - 1) 0 := by
  obtain ⟨-, -, hlayer, hversion, hs, hb⟩ := (legal_iff h).mp hl
  have hi0 := brIndex_ne_zero_of_legal hl
  obtain ⟨hi15, -, -⟩ := bitrateOf_valid hb
  obtain ⟨row, hrow, hv, hla, hsr⟩ := exists_sizeTable_row hversion hlayer hs
  refine ⟨row, hrow, hv, hla, hsr, ?_, le_sizeTable_entry row hrow _ hi0 hi15⟩
  rw [← sizeTable_row_eq row hrow _ hi0 hi15, hv, hla, hsr, frameSize_eq_unpadded_add]

/-- Settles O22. -/
theorem frameSizesAreTheTable : Obligations.FrameSizesAreTheTable := by
  intro h hl
  obtain ⟨row, hrow, hv, hla, hsr, hsize, -⟩ := exists_sizeTable_entry hl
  exact ⟨row, hrow, hv, hla, hsr, hsize.trans (congrArg (_ + ·) (padBytes_eq h))⟩

theorem le_frameSize {h : Word} (hl : legal h = true) : 24 ≤ frameSize h := by
  obtain ⟨row, -, -, -, -, hsize, hle⟩ := exists_sizeTable_entry hl
  omega

/-- Settles O23: the lower bound is the table's, and the extremes are computed from their fields. -/
theorem frameSizesRunFrom24To2881 : Obligations.FrameSizesRunFrom24To2881 := by
  refine ⟨fun h hl => ⟨le_frameSize hl, frameSize_le hl⟩, fun h _ hv hla hb hs hp => ?_, fun h _ hv hla hb hs hp => ?_,
    by decide, by decide, by decide⟩ <;>
  · rw [frameSize, samples, padBytes, slot, hv, hla, hb, hs, hp]; rfl

/-! ### Short frames (spec/41_frame_length.md R102) -/

section
variable {h : Word}

/-- Only MPEG1 with more than one channel has more than 17 bytes of side info. -/
theorem headLength_le_of_short_sideInfo (hl : legal h = true) (hc : version h ≠ mpeg1 ∨ chmode h = singleChannel) :
    headLength h ≤ 23 := by
  have hcrc := crcLen_le h
  obtain ⟨-, -, -, hv, -⟩ := (legal_iff h).mp hl
  rw [headLength_eq (sideLen_of_ne_reserved hv)]
  rcases hc with hv1 | hch
  · rw [if_neg hv1]; split <;> omega
  · rw [if_pos hch, if_pos hch]; split <;> omega

theorem headLength_of_mpeg1 (hv : version h = mpeg1) (hc : chmode h ≠ singleChannel) :
    headLength h = 36 + if protection h then 0 else 2 := by
  have hside : sideLen h = some 32 := by rw [sideLen, if_pos hv, if_neg hc]
  rw [headLength_eq hside, crcLen, crcPresent]
  cases protection h <;> rfl

/-- The MPEG1 frames of at most 38 bytes are Layer I at 32 kbit/s and 44100 or 48000 Hz. -/
theorem fields_of_sizeOfFields_le {l : BitVec 2} {i : BitVec 4} {s : BitVec 2} {p : Bool} (hl : l ≠ reservedLayer)
    (hi : i ≠ 0#4) (hs : samplerateOf mpeg1 s ≠ Config.invalid) (hle : sizeOfFields mpeg1 l i s p ≤ 38) :
    l = layerI ∧ i = 1#4 ∧ (s = 0#2 ∨ s = 1#2) := by
  revert l i s p; decide

/-- The sizes of those frames against 36 bytes of header and side info and a CRC of 2, if there is one. -/
theorem shortSizes (p prot : Bool) {s : BitVec 2} (hs : s = 0#2 ∨ s = 1#2) :
    (sizeOfFields mpeg1 layerI 1#4 s p < 36 + (if prot then 0 else 2) ↔
      (s = 0#2 ∧ p = false) ∨ (s = 1#2 ∧ p = false) ∨ (s = 1#2 ∧ p = true ∧ prot = false)) ∧
    (sizeOfFields mpeg1 layerI 1#4 s p = 36 + (if prot then 0 else 2) ↔
      (s = 0#2 ∧ p = true ∧ prot = false) ∨ (s = 1#2 ∧ p = true ∧ prot = true)) := by
  revert p prot s; decide

/-- The headers whose frame, if they are legal, can be as short as header, CRC and side info
(spec/41_frame_length.md R102). -/
structure MayBeShort (h : Word) : Prop where
  isMpeg1 : version h = mpeg1
  isLayerI : layer h = layerI
  lowestRate : brIndex h = 1#4
  notSingleChannel : chmode h ≠ singleChannel
  srIndex_eq : srIndex h = 0#2 ∨ srIndex h = 1#2

theorem frameSize_of_mayBeShort (hm : MayBeShort h) :
    frameSize h = sizeOfFields mpeg1 layerI 1#4 (srIndex h) (pad h) := by
  rw [frameSize_eq, hm.isMpeg1, hm.isLayerI, hm.lowestRate]

/-- Any other legal header's frame goes on past header, CRC and side info. -/
theorem headLength_lt_frameSize (hl : legal h = true) (hm : ¬ MayBeShort h) : headLength h < frameSize h := by
  by_cases hc : version h ≠ mpeg1 ∨ chmode h = singleChannel
  · exact (headLength_le_of_short_sideInfo hl hc).trans_lt (le_frameSize hl)
  · push Not at hc
    obtain ⟨hv, hch⟩ := hc
    obtain ⟨-, -, hlayer, -, hs, -⟩ := (legal_iff h).mp hl
    refine (headLength_le h).trans_lt (Nat.lt_of_not_le fun hle => hm ?_)
    rw [frameSize_eq, hv] at hle
    obtain ⟨hla, hi, hsr⟩ := fields_of_sizeOfFields_le hlayer (brIndex_ne_zero_of_legal hl) (hv ▸ hs) hle
    exact ⟨hv, hla, hi, hch, hsr⟩

end

/-- Settles O24: where the frame can be short the classes are told by the sizes, and everywhere else it is longer. -/
theorem shortFrameClassesAreTheFive : Obligations.ShortFrameClassesAreTheFive := by
  intro h hl
  by_cases hm : MayBeShort h
  · obtain ⟨hlt, heq⟩ := shortSizes (pad h) (protection h) hm.srIndex_eq
    rw [frameSize_of_mayBeShort hm, headLength_of_mpeg1 hm.isMpeg1 hm.notSingleChannel, hlt, heq]
    have hfields (p : Prop) : p ↔ version h = 3#2 ∧ layer h = 3#2 ∧ brIndex h = 1#4 ∧ chmode h ≠ 3#2 ∧ p :=
      ⟨fun hp => ⟨hm.isMpeg1, hm.isLayerI, hm.lowestRate, hm.notSingleChannel, hp⟩, fun ⟨_, _, _, _, hp⟩ => hp⟩
    exact ⟨hfields _, hfields _⟩
  · have hlt := headLength_lt_frameSize hl hm
    exact ⟨iff_of_false hlt.not_gt fun ⟨hv, hla, hi, hch, hs⟩ => hm ⟨hv, hla, hi, hch, by tauto⟩,
      iff_of_false hlt.ne' fun ⟨hv, hla, hi, hch, hs⟩ => hm ⟨hv, hla, hi, hch, by tauto⟩⟩

/-! ### Samples, sample rates and durations (spec/41_frame_length.md R95, R105) -/

theorem samples_mem {h : Word} (hl : legal h = true) : samples h ∈ [384, 576, 1152] := by
  obtain ⟨-, -, hlayer, hversion, -⟩ := (legal_iff h).mp hl
  rw [samples]
  generalize version h = v at hversion
  generalize layer h = l at hlayer
  revert v l; decide

/-- An eighth of the samples is an integer (spec/41_frame_length.md R99). -/
theorem samples_eq_eight_mul {h : Word} (hl : legal h = true) : ∃ m ≤ 144, samples h = 8 * m := by
  have hmem := samples_mem hl
  simp only [List.mem_cons, List.not_mem_nil, or_false] at hmem
  exact ⟨samples h / 8, by omega, by omega⟩

theorem samplerate_bounds {h : Word} (hl : legal h = true) :
    0 < (samplerate h).toNat ∧ (samplerate h).toNat ≤ 48000 := by
  obtain ⟨hmem, -⟩ := legalHeadersHaveRates h hl
  simp only [List.mem_cons, List.not_mem_nil, or_false] at hmem
  omega

/-- The row of the table of R105 for a version and a sample rate holds the durations of all its layers. -/
theorem exists_durationTable_row {v l s : BitVec 2} (hv : v ≠ reservedVersion) (hl : l ≠ reservedLayer)
    (hs : samplerateOf v s ≠ Config.invalid) : ∃ row ∈ durationTable, row.1 = v ∧ row.2.1 = s ∧
      (((romSpf v l).toNat = 384 ∧ (romSpf v l).toNat * 1000 / (samplerateOf v s).toNat = row.2.2.1) ∨
        ((romSpf v l).toNat = 576 ∧ (romSpf v l).toNat * 1000 / (samplerateOf v s).toNat = row.2.2.2.1) ∨
        ((romSpf v l).toNat = 1152 ∧ (romSpf v l).toNat * 1000 / (samplerateOf v s).toNat = row.2.2.2.2)) := by
  revert v l s; decide

end Sys2Proof.Machine
end

section
/-! PROOFS (spec/41_frame_length.md R97, R99, R103, R105). The floating-point references: an integer below `2^53` is a
binary64 value, and truncating a binary64 quotient of such an integer gives the integer quotient. -/

namespace Sys2Proof.Machine.Reference

/-- The unit in the last place of the binary64 value of `num / den`, over `scale`. -/
def ulp (num den : Nat) : Nat := 2 ^ ((num * scale / den).log2 - 52)

section
variable {num den : Nat}

theorem scale_pos : 0 < scale := by decide

theorem ulp_pos : 0 < ulp num den := Nat.two_pow_pos _

/-- Rounding goes down to a multiple of the unit, or up from at least half a unit below one. -/
theorem round64_cases (num den : Nat) :
    round64 num den = num * scale / (den * ulp num den) * ulp num den ∨
    (round64 num den = (num * scale / (den * ulp num den) + 1) * ulp num den ∧
      den * ulp num den ≤ 2 * (num * scale % (den * ulp num den))) := by
  rw [round64]
  by_cases hup : den * ulp num den < 2 * (num * scale % (den * ulp num den)) ∨
      (den * ulp num den = 2 * (num * scale % (den * ulp num den)) ∧ num * scale / (den * ulp num den) % 2 = 1)
  · exact .inr ⟨if_pos hup, hup.elim Nat.le_of_lt fun ⟨heq, _⟩ => heq.le⟩
  · exact .inl (if_neg hup)

/-- A multiple of the unit that the quotient reaches is reached after rounding. -/
theorem le_round64 (hden : 0 < den) {m : Nat} (hm : ulp num den ∣ m) (hle : den * m ≤ num * scale) :
    m ≤ round64 num den := by
  obtain ⟨k, rfl⟩ := hm
  have hk : k ≤ num * scale / (den * ulp num den) := by
    rw [Nat.le_div_iff_mul_le (Nat.mul_pos hden ulp_pos)]
    calc k * (den * ulp num den) = den * (ulp num den * k) := by ring
      _ ≤ num * scale := hle
  rw [Nat.mul_comm]
  rcases round64_cases num den with h | ⟨h, -⟩ <;> rw [h]
  · exact Nat.mul_le_mul_right _ hk
  · exact Nat.mul_le_mul_right _ (hk.trans (Nat.le_succ _))

/-- Rounding adds at most half a unit. -/
theorem round64_le (num den : Nat) : 2 * (den * round64 num den) ≤ 2 * (num * scale) + den * ulp num den := by
  have hdiv := Nat.div_add_mod' (num * scale) (den * ulp num den)
  rw [Nat.mul_left_comm] at hdiv
  rcases round64_cases num den with h | ⟨h, hhalf⟩ <;> rw [h]
  · omega
  · rw [Nat.add_mul, Nat.one_mul, Nat.mul_add]; omega

/-- A common factor of numerator and denominator does not change the rounded quotient. -/
theorem round64_mul_right {k : Nat} (hk : 0 < k) (num den : Nat) : round64 (num * k) (den * k) = round64 num den := by
  have hhalf (a r : Nat) : a * k < 2 * (r * k) ↔ a < 2 * r := by
    rw [← Nat.mul_assoc, Nat.mul_lt_mul_right hk]
  have htie (a r : Nat) : a * k = 2 * (r * k) ↔ a = 2 * r := by
    rw [← Nat.mul_assoc, Nat.mul_left_inj hk.ne']
  simp only [round64, Nat.mul_right_comm _ k, Nat.mul_div_mul_right _ _ hk, Nat.mul_mod_mul_right, hhalf, htie]

section
variable (hnum : num < 2 ^ 53)
include hnum

/-- The unit of a quotient below `2^53` is at most 1. -/
theorem ulp_dvd_scale : ulp num den ∣ scale := by
  have hlt : num * scale / den < 2 ^ 117 := by
    refine (Nat.div_le_self _ _).trans_lt ?_
    rw [scale]; omega
  have hlog : (num * scale / den).log2 < 117 := by
    by_cases h0 : num * scale / den = 0
    · rw [h0]; decide
    · exact (Nat.log2_lt h0).mpr hlt
  exact Nat.pow_dvd_pow 2 (by omega)

/-- Half a unit of a quotient of an integer below `2^53` is less than one part in `den`. -/
theorem mul_ulp_lt (hden : den < 2 ^ 65) : den * ulp num den < 2 * scale := by
  by_cases hlog : (num * scale / den).log2 ≤ 52
  · rw [ulp, Nat.sub_eq_zero_of_le hlog, scale]; omega
  · have hne : num * scale / den ≠ 0 := fun h0 => hlog (by rw [h0]; decide)
    have hpow : ulp num den * 2 ^ 52 = 2 ^ (num * scale / den).log2 := by
      rw [ulp, ← Nat.pow_add, Nat.sub_add_cancel (Nat.le_of_not_le hlog)]
    have hle : den * (ulp num den * 2 ^ 52) ≤ num * scale := by
      rw [hpow]
      exact (Nat.mul_le_mul_left den (Nat.log2_self_le hne)).trans (Nat.mul_div_le _ _)
    rw [scale] at hle ⊢
    rw [← Nat.mul_assoc] at hle
    omega

/-- An integer below `2^53` is a binary64 value. -/
theorem round64_one : round64 num 1 = num * scale := by
  have hdvd : ulp num 1 ∣ num * scale := (ulp_dvd_scale hnum).mul_left num
  rcases round64_cases num 1 with h | ⟨-, hhalf⟩
  · rw [h, Nat.one_mul, Nat.div_mul_cancel hdvd]
  · rw [Nat.one_mul, Nat.mod_eq_zero_of_dvd hdvd] at hhalf
    exact absurd hhalf ulp_pos.not_ge

/-- Truncating the binary64 quotient of an integer below `2^53` gives the integer quotient: rounding crosses no integer
upwards, since the quotient is at least one part in `den` below the next. -/
theorem truncate_round64 (hden : 0 < den) (hlt : den < 2 ^ 65) : truncate (round64 num den) = num / den := by
  refine Nat.div_eq_of_lt_le (le_round64 hden ((ulp_dvd_scale hnum).mul_left _) ?_) ?_
  · rw [← Nat.mul_assoc]
    exact Nat.mul_le_mul_right scale (Nat.mul_div_le num den)
  · refine Nat.lt_of_mul_lt_mul_left (a := den) ?_
    have hround := round64_le num den
    have hulp := mul_ulp_lt hnum hlt
    have hnext : (num + 1) * scale ≤ den * (num / den + 1) * scale :=
      Nat.mul_le_mul_right scale (Nat.lt_mul_div_succ num hden)
    rw [Nat.add_mul, Nat.one_mul, Nat.mul_assoc] at hnext
    omega

end
end

/-! ### Frame size (spec/41_frame_length.md R97, R99) -/

/-- Where an eighth of the samples and the product are integers below `2^53`, only the division of R97 rounds, and the
truncated quotient is R98's. -/
theorem truncate_fsize {m bitrate samplerate : Nat} (hm : m < 2 ^ 53) (hprod : m * bitrate < 2 ^ 53)
    (hpos : 0 < samplerate) (hlt : samplerate < 2 ^ 65) :
    truncate (fsize (8 * m) bitrate samplerate) = 8 * m * bitrate / (8 * samplerate) := by
  have heighth : round64 (8 * m) 8 = m * scale := by
    rw [← round64_one hm, Nat.mul_comm]
    exact round64_mul_right (by decide) m 1
  have hmul : round64 (m * scale * bitrate) scale = m * bitrate * scale := by
    rw [← round64_one hprod, Nat.mul_right_comm]
    simpa only [Nat.one_mul] using round64_mul_right scale_pos (m * bitrate) 1
  rw [fsize, heighth, hmul, round64_mul_right scale_pos, truncate_round64 hprod hpos hlt, Nat.mul_assoc,
    Nat.mul_div_mul_left _ _ (by decide)]

/-- Settles O25: samples and bitrate of a legal header are far below `2^53`. -/
theorem frameSizeEqualsTheFloatReference : Obligations.FrameSizeEqualsTheFloatReference := by
  intro h hl
  obtain ⟨-, -, -, -, -, hb⟩ := (legal_iff h).mp hl
  obtain ⟨m, hm, hsamples⟩ := samples_eq_eight_mul hl
  obtain ⟨hpos, hrate⟩ := samplerate_bounds hl
  have hprod : m * (bitrate h).toNat ≤ 144 * 448000 := Nat.mul_le_mul hm (bitrateOf_bounds hb).2
  rw [frameSize, sizeRef, hsamples, truncate_fsize (by omega) (by omega) hpos (by omega)]

/-! ### Duration (spec/41_frame_length.md R103, R105) -/

/-- Both operations of R103 round, so this is a fact about each pair of a sample rate and a sample count. -/
theorem truncate_msec : ∀ samplerate ∈ [8000, 11025, 12000, 16000, 22050, 24000, 32000, 44100, 48000],
    ∀ samples ∈ [384, 576, 1152], truncate (msec samples samplerate) = samples * 1000 / samplerate := by
  decide

/-- Settles O26. -/
theorem durationEqualsTheFloatReference : Obligations.DurationEqualsTheFloatReference := by
  intro h hl
  obtain ⟨-, -, hlayer, hversion, hs, -⟩ := (legal_iff h).mp hl
  obtain ⟨hrate, -⟩ := legalHeadersHaveRates h hl
  exact ⟨(truncate_msec _ hrate _ (samples_mem hl)).symm, exists_durationTable_row hversion hlayer hs⟩

end Sys2Proof.Machine.Reference
end

section
/-! PROOFS (spec/42_synchronizer.md R113 to R122). The turns of the engine and of the source as equations, one for each
phase and branch. -/

namespace Sys2Proof.Machine

section
variable {s : State}

/-! ### A step is a turn -/

theorem step_of_sched {turn : Turn} {rest : List Turn} (hs : s.sched = turn :: rest) :
    step s = takeTurn turn (s.begun rest) := by
  unfold step nextTurn
  rw [hs]
  rfl

theorem step_engine (hr : s.R31) {rest : List Turn} (hs : s.sched = .engine :: rest) :
    step s = engineTurn (s.begun rest) :=
  (step_of_sched hs).trans (inReachable_eq hr _)

theorem step_source (hr : s.R31) {rest : List Turn} (hs : s.sched = .source :: rest) :
    step s = sourceTurn (s.begun rest) :=
  (step_of_sched hs).trans (inReachable_eq hr _)

theorem engineTurn_of_pending (hp : s.pending = true) : engineTurn s = .next s := by
  rw [engineTurn, if_pos hp]

/-! ### The engine's turn, phase by phase -/

theorem engineTurn_sync (hp : s.pending = false) (hph : s.phase = .sync) : engineTurn s = engineSync s := by
  simp [engineTurn, hp, hph]

theorem engineTurn_crc (hp : s.pending = false) (hph : s.phase = .crc) : engineTurn s = engineCrc s := by
  simp [engineTurn, hp, hph]

theorem engineTurn_side (hp : s.pending = false) (hph : s.phase = .side) : engineTurn s = engineSide s := by
  simp [engineTurn, hp, hph]

theorem engineTurn_payload (hp : s.pending = false) (hph : s.phase = .payload) : engineTurn s = enginePayload s := by
  simp [engineTurn, hp, hph]

theorem withFrameHeader_of_some {h : Word} (hh : s.frameHeader = some h) (k : Word → Outcome) :
    withFrameHeader s k = k h := by
  rw [withFrameHeader, hh]

/-! ### SYNC -/

theorem State.lt_bufLen_of_bufRead {i : Nat} {b : Byte} (hb : s.bufRead i = some b) : i < s.bufLen.toNat := by
  by_contra hi
  rw [State.bufRead_eq_none (Nat.le_of_not_lt hi)] at hb
  cases hb

/-- A header held is four bytes held. -/
theorem State.four_le_of_frameHeader {h : Word} (hh : s.frameHeader = some h) : 4 ≤ s.bufLen.toNat := by
  obtain ⟨-, -, -, b3, -, -, -, h3, -⟩ := State.frameHeader_eq_some.mp hh
  exact State.lt_bufLen_of_bufRead h3

/-- A legal window ends the search (spec/42_synchronizer.md R116). -/
theorem engineSync_of_legal {h : Word} (hh : s.frameHeader = some h) (hl : legal h = true) :
    engineSync s = .next { s with phase := if crcPresent h then .crc else .side } := by
  rw [engineSync, if_neg (State.four_le_of_frameHeader hh).not_gt, withFrameHeader_of_some hh, if_pos hl]

/-- A window that is not legal is shortened (spec/42_synchronizer.md R116). -/
theorem engineSync_of_not_legal {h : Word} (hh : s.frameHeader = some h) (hl : legal h = false) :
    engineSync s = discard s := by
  rw [engineSync, if_neg (State.four_le_of_frameHeader hh).not_gt, withFrameHeader_of_some hh, hl,
    if_neg Bool.false_ne_true]

/-! ### The discard -/

/-- The window after a discard of one byte. -/
def State.dropOne (s : State) (b1 b2 b3 : Byte) : State :=
  (((s.bufWrite 0#12 b1).bufWrite 1#12 b2).bufWrite 2#12 b3).setBufLen 3#12

/-- The window after a discard of two bytes. -/
def State.dropTwo (s : State) (b2 b3 : Byte) : State := ((s.bufWrite 0#12 b2).bufWrite 1#12 b3).setBufLen 2#12

theorem State.dropOne_bufRead (s : State) (b1 b2 b3 : Byte) : (s.dropOne b1 b2 b3).bufRead 0 = some b1 ∧
    (s.dropOne b1 b2 b3).bufRead 1 = some b2 ∧ (s.dropOne b1 b2 b3).bufRead 2 = some b3 := by
  simp [State.dropOne, State.bufRead_setBufLen, Memory.read_write_other]

theorem State.dropTwo_bufRead (s : State) (b2 b3 : Byte) :
    (s.dropTwo b2 b3).bufRead 0 = some b2 ∧ (s.dropTwo b2 b3).bufRead 1 = some b3 := by
  simp [State.dropTwo, State.bufRead_setBufLen, Memory.read_write_other]

section
variable {b1 b2 b3 : Byte}

theorem discard_of_ff (h1 : s.bufRead 1 = some b1) (h2 : s.bufRead 2 = some b2) (h3 : s.bufRead 3 = some b3)
    (hff : b1 = 0xFF#8) : discard s = .next ((s.dropOne b1 b2 b3).skipAdd 1) := by
  rw [discard, h1, h2, h3]
  exact if_pos hff

theorem discard_of_ne_ff (h1 : s.bufRead 1 = some b1) (h2 : s.bufRead 2 = some b2) (h3 : s.bufRead 3 = some b3)
    (hff : b1 ≠ 0xFF#8) : discard s = .next ((s.dropTwo b2 b3).skipAdd 2) := by
  rw [discard, h1, h2, h3]
  exact if_neg hff

end

/-- `skip_add` in one equation (spec/10_state.md R19). -/
theorem State.skipAdd_eq (s : State) (n : Nat) : s.skipAdd n = { s with
    skip := BitVec.ofNat 32 (min (s.skip.toNat + n) Config.skipMax),
    skipSat := s.skipSat || decide (Config.skipMax < s.skip.toNat + n) } := by
  by_cases hn : s.skip.toNat + n ≤ Config.skipMax
  · rw [State.skipAdd_exact hn, Nat.min_eq_left hn, decide_eq_false (Nat.not_lt.mpr hn), Bool.or_false]
  · have hn := Nat.lt_of_not_le hn
    rw [State.skipAdd_saturates hn, Nat.min_eq_right hn.le, decide_eq_true hn, Bool.or_true]

/-! ### CRC, SIDE and PAYLOAD -/

theorem engineCrc_of_le (h6 : 6 ≤ s.bufLen.toNat) : engineCrc s = .next { s with phase := .side } :=
  if_neg h6.not_gt

theorem engineSide_of_le {h : Word} (hh : s.frameHeader = some h) {n : Nat} (hn : sideLen h = some n)
    (hle : 4 + crcLen h + n ≤ s.bufLen.toNat) : engineSide s = .next { s with phase := .payload } := by
  rw [engineSide, withFrameHeader_of_some hh, hn]
  exact if_neg hle.not_gt

/-- ERR_VERSION of a header (spec/41_frame_length.md R94). -/
theorem sideLen_eq_none {h : Word} (hv : version h = reservedVersion) : sideLen h = none := by
  rw [sideLen, hv]; rfl

theorem enginePayload_of_legal {h : Word} (hh : s.frameHeader = some h) (hl : legal h = true) : enginePayload s =
    if frameSize h < s.bufLen.toNat then .next (s.finish .frameTooShort)
    else if s.bufLen.toNat < frameSize h then issueFetch s
    else .next (s.finish .ok) := by
  rw [enginePayload, withFrameHeader_of_some hh, if_pos hl]

/-- Past SYNC the header held is legal (spec/10_state.md R31 item 3). -/
theorem State.R31.legal_of_payload (hr : s.R31) (hph : s.phase = .payload) {h : Word} (hh : s.frameHeader = some h) :
    legal h = true := by
  obtain ⟨-, -, hheader, -⟩ := hr
  obtain ⟨w, hw, hl⟩ := State.headerLegal_iff.mp (hheader (.inr (.inr hph))).2
  cases hh.symm.trans hw
  exact hl

/-! ### The source's answer -/

theorem sourceTurn_of_pending (hp : s.pending = true) {a : SrcAnswer} {more : List SrcAnswer}
    (hsrc : s.src = a :: more) : sourceTurn s = .next (answerFetch a { s with pending := false, src := more }) := by
  rw [sourceTurn, if_pos hp, hsrc]

end

/-! ### The statements about the turns -/

/-- Settles O34. -/
theorem engineIsHeldWhenIdleOrWaiting : Obligations.EngineIsHeldWhenIdleOrWaiting := by
  intro s rest hr hs hheld
  rw [step_engine hr hs]
  rcases hheld with hi | hp
  · exact engineTurn_of_idle (s := s.begun rest) hi
  · exact engineTurn_of_pending (s := s.begun rest) hp

/-- Settles O37. -/
theorem legalWindowEndsTheSearch : Obligations.LegalWindowEndsTheSearch := by
  intro s rest h hr hs hp hph hh hl
  rw [step_engine hr hs, engineTurn_sync (s := s.begun rest) hp hph,
    engineSync_of_legal (s := s.begun rest) (State.holdsHeader_iff.mp hh) hl]
  simp only [crcPresent_iff]

/-- Settles O38. -/
theorem illegalWindowDropsOneOrTwoBytes : Obligations.IllegalWindowDropsOneOrTwoBytes := by
  intro s rest b0 b1 b2 b3 hr hs hp hph h0 h1 h2 h3 hl
  have hh : (s.begun rest).frameHeader = some (headerWord b0 b1 b2 b3) :=
    State.frameHeader_eq_some.mpr ⟨b0, b1, b2, b3, h0, h1, h2, h3, rfl⟩
  rw [step_engine hr hs, engineTurn_sync (s := s.begun rest) hp hph, engineSync_of_not_legal hh hl]
  by_cases hff : b1 = 0xFF#8
  · refine ⟨_, _, discard_of_ff (s := s.begun rest) h1 h2 h3 hff, fun _ => ⟨State.skipAdd_eq _ 1, ?_⟩,
      fun hne => absurd hff hne⟩
    rw [State.skipAdd_eq]
    exact State.dropOne_bufRead (s.begun rest) b1 b2 b3
  · refine ⟨_, _, discard_of_ne_ff (s := s.begun rest) h1 h2 h3 hff, fun heq => absurd heq hff,
      fun _ => ⟨State.skipAdd_eq _ 2, ?_⟩⟩
    rw [State.skipAdd_eq]
    exact State.dropTwo_bufRead (s.begun rest) b2 b3

/-- Settles O54: the sync bits begin with a byte of ones. -/
theorem skippedPositionsAreNeverLegal : Obligations.SkippedPositionsAreNeverLegal := by
  intro b1 b2 b3 b4 hne
  refine Bool.eq_false_iff.mpr fun hl => hne (BitVec.eq_of_toNat_eq ?_)
  have ⟨hsync, _⟩ := (legal_iff _).mp hl
  rw [syncOk_iff, headerWord_toNat] at hsync
  rw [BitVec.toNat_ofNat]
  have h1 := b1.isLt
  have h2 := b2.isLt
  have h3 := b3.isLt
  have h4 := b4.isLt
  omega

/-- Settles O39. -/
theorem filledPhasesMoveOn : Obligations.FilledPhasesMoveOn := by
  intro s rest hr hs hp
  rw [step_engine hr hs]
  refine ⟨fun hph h6 => ?_, fun hph h n hh hn hle => ?_⟩
  · exact (engineTurn_crc (s := s.begun rest) hp hph).trans (engineCrc_of_le h6)
  · exact (engineTurn_side (s := s.begun rest) hp hph).trans (engineSide_of_le (State.holdsHeader_iff.mp hh) hn hle)

/-- Settles O40. -/
theorem reservedVersionInSideEndsTheDecode : Obligations.ReservedVersionInSideEndsTheDecode := by
  intro s h hp hph hh hv
  rw [engineTurn_side hp hph, engineSide, withFrameHeader_of_some (State.holdsHeader_iff.mp hh),
    sideLen_eq_none ((version_eq_reserved_iff h).mpr hv)]
  rfl

/-- Settles O41. -/
theorem payloadEndsByItsLength : Obligations.PayloadEndsByItsLength := by
  intro s rest h hr hs hp hph hh
  rw [State.holdsHeader_iff] at hh
  rw [step_engine hr hs, engineTurn_payload (s := s.begun rest) hp hph,
    enginePayload_of_legal (s := s.begun rest) hh (hr.legal_of_payload hph hh)]
  refine ⟨fun hlt => if_pos hlt, fun hlt => ?_, fun heq => ?_⟩
  · exact (if_neg hlt.not_gt).trans (if_pos hlt)
  · exact (if_neg heq.not_gt).trans (if_neg heq.not_lt)

/-- Settles O36. -/
theorem sourceAnswerAppendsOrEndsTheDecode : Obligations.SourceAnswerAppendsOrEndsTheDecode := by
  intro s rest a more hr hs hp hsrc
  have hlt : s.bufLen.toNat < 4095 := by
    obtain ⟨-, -, -, -, hle, -⟩ := hr
    exact hle.trans_lt (by decide)
  rw [step_source hr hs, sourceTurn_of_pending (s := s.begun rest) hp hsrc]
  refine ⟨?_, ?_, ?_⟩
  · rintro b rfl
    exact ⟨_, _, rfl, rfl, State.append_bufLen_toNat hlt b, State.bufRead_append_last hlt b,
      fun k hk => State.bufRead_append_below hlt b hk⟩
  · rintro rfl
    by_cases hph : s.phase = .sync <;> simp [answerFetch, State.finish, hph]
  · rintro e rfl
    rfl

end Sys2Proof.Machine
end

section
/-! PROOFS (spec/42_synchronizer.md R123, spec/60_exceptions.md R151). No turn of a state of the invariant stops the
machine, and no run does. -/

namespace Sys2Proof.Machine

/-! ### The frame that a command reads -/

section
variable {s : State}

/-- With FRAME_VALID the buffer holds exactly the frame of a legal header, and that frame has its CRC and side info
(spec/10_state.md R31 item 1, spec/43_frame_access.md R130). -/
theorem State.Inv.frame (hs : s.Inv) (hv : s.frameValid = true) :
    ∃ h, s.frameHeader = some h ∧ legal h = true ∧ s.bufLen.toNat = frameSize h ∧ headLength h ≤ frameSize h := by
  obtain ⟨⟨hframe, -⟩, -, -, ⟨-, -, -, hlong⟩, -⟩ := hs
  obtain ⟨-, -, hlegal, hsize⟩ := hframe hv
  obtain ⟨h, hh, hl⟩ := State.headerLegal_iff.mp hlegal
  obtain ⟨h₁, hh₁, hsize⟩ := State.lengthIsSize_iff.mp hsize
  obtain ⟨h₂, hh₂, hlong⟩ := State.headerSatisfies_iff.mp (hlong hv)
  cases hh.symm.trans hh₁
  cases hh.symm.trans hh₂
  exact ⟨h, hh, hl, hsize, hlong⟩

theorem State.Inv.exists_bufRead (hs : s.Inv) {i : Nat} (hi : i < s.bufLen.toNat) : ∃ b, s.bufRead i = some b :=
  have ⟨_, hfill, _⟩ := hs
  Option.isSome_iff_exists.mp (s.bufRead_isSome hfill hi)

/-! ### Every command -/

theorem whenFrameValid_total {k : Outcome} (hk : s.frameValid = true → ∃ t, k = .next t) :
    ∃ t, whenFrameValid s k = .next t := by
  unfold whenFrameValid
  split
  · exact hk ‹_›
  · exact ⟨_, rfl⟩

/-- A command that begins with the frame's header goes on with a legal one, whose frame is held. -/
theorem whenFrameValid_withFrameHeader_total (hs : s.Inv) {k : Word → Outcome}
    (hk : ∀ h, legal h = true → headLength h ≤ s.bufLen.toNat → ∃ t, k h = .next t) :
    ∃ t, whenFrameValid s (withFrameHeader s k) = .next t := by
  refine whenFrameValid_total fun hv => ?_
  obtain ⟨h, hh, hl, hsize, hlong⟩ := hs.frame hv
  rw [withFrameHeader_of_some hh]
  exact hk h hl (hlong.trans hsize.ge)

theorem withHeader_total (hs : s.Inv) (src : HdrSrc) {k : Word → Outcome} (hk : ∀ h, ∃ t, k h = .next t) :
    ∃ t, withHeader src s k = .next t := by
  cases src with
  | probe => exact hk s.probe
  | frame => exact whenFrameValid_withFrameHeader_total hs fun h _ _ => hk h

theorem hfCommand_total (hs : s.Inv) (value : Word → Word) (src : HdrSrc) :
    ∃ t, hfCommand value src s = .next t :=
  withHeader_total hs src fun _ => ⟨_, rfl⟩

theorem flCommand_total (hs : s.Inv) {value : Word → Option Nat} (hv : ∀ h, legal h = true → ∃ n, value h = some n)
    (src : HdrSrc) : ∃ t, flCommand value src s = .next t := by
  refine withHeader_total hs src fun h => ?_
  by_cases hl : legal h = true
  · obtain ⟨n, hn⟩ := hv h hl
    exact ⟨_, by rw [if_pos hl, hn]⟩
  · exact ⟨_, if_neg hl⟩

theorem respondByte_total (hs : s.Inv) {i : Nat} (hi : i < s.bufLen.toNat) : ∃ t, respondByte s i = .next t := by
  obtain ⟨b, hb⟩ := hs.exists_bufRead hi
  exact ⟨_, by rw [respondByte, hb]⟩

theorem State.Inv.exists_frameCrc (hs : s.Inv) (h6 : 6 ≤ s.bufLen.toNat) : ∃ c, s.frameCrc = some c := by
  obtain ⟨b4, h4⟩ := hs.exists_bufRead (i := 4) (by omega)
  obtain ⟨b5, h5⟩ := hs.exists_bufRead (i := 5) (by omega)
  exact ⟨_, by rw [State.frameCrc, h4, h5]⟩

theorem execDecode_total : ∃ t, execDecode s = .next t := by
  unfold execDecode
  split <;> exact ⟨_, rfl⟩

theorem execFdCrc_total (hs : s.Inv) : ∃ t, execFdCrc s = .next t := by
  refine whenFrameValid_withFrameHeader_total hs fun h _ hlong => ?_
  by_cases hc : crcPresent h = true
  · have hcl : crcLen h = 2 := if_pos hc
    have := four_add_crcLen_le_headLength h
    obtain ⟨c, hcrc⟩ := hs.exists_frameCrc (by omega)
    exact ⟨_, by rw [if_pos hc, hcrc]⟩
  · exact ⟨_, if_neg hc⟩

theorem execFdByte_total (hs : s.Inv) (idx : Nat) : ∃ t, execFdByte idx s = .next t := by
  refine whenFrameValid_total fun _ => ?_
  split
  · exact ⟨_, rfl⟩
  · exact respondByte_total hs (by omega)

theorem execFdSide_total (hs : s.Inv) (idx : Nat) : ∃ t, execFdSide idx s = .next t := by
  refine whenFrameValid_withFrameHeader_total hs fun h hl hlong => ?_
  obtain ⟨n, hn⟩ := sideLen_of_legal hl
  rw [headLength_eq hn] at hlong
  simp only [hn]
  split
  · exact ⟨_, rfl⟩
  · exact respondByte_total hs (by omega)

/-- In every state of the invariant every command has a next state (spec/60_exceptions.md R151). -/
theorem exec_total (hs : s.Inv) (i : Instr) : ∃ t, exec i s = .next t := by
  cases i with
  | nop | ldprobe | rdstat | rdskip => exact ⟨_, rfl⟩
  | decode => exact execDecode_total
  | hfRaw | hfVersion | hfLayer | hfProtection | hfBitrate | hfSamplerate | hfPad | hfPrivate | hfChmode
  | hfCopyright | hfOriginal | hfEmphasis | hfLegal => unfold exec; exact hfCommand_total hs _ _
  | flSamples | flSize | flDuration | flCrclen =>
    unfold exec; exact flCommand_total hs (fun _ _ => ⟨_, rfl⟩) _
  | flSidelen => unfold exec; exact flCommand_total hs (fun _ hl => sideLen_of_legal hl) _
  | fdLen => exact whenFrameValid_total fun _ => ⟨_, rfl⟩
  | fdCrc => exact execFdCrc_total hs
  | fdByte idx => exact execFdByte_total hs idx
  | fdSide idx => exact execFdSide_total hs idx

/-! ### Every turn -/

theorem hostTurn_total (hs : s.Inv) : ∃ t, hostTurn s = .next t := by
  match hh : s.host with
  | [] => exact ⟨s, by simp only [hostTurn, hh]⟩
  | .wait :: rest => exact ⟨_, (hostTurn_wait hh).trans (runWait_eq rest s)⟩
  | .issue w :: rest =>
    rw [hostTurn_issue hh]
    match hw : decodeWord w with
    | .ok i => rw [runCommand_ok hw]; exact exec_total ((State.SameDecode.withHost s rest).inv hs) i
    | .error e => exact ⟨_, runCommand_error hw _⟩

theorem discard_total {h : Word} (hh : s.frameHeader = some h) : ∃ t, discard s = .next t := by
  obtain ⟨b0, b1, b2, b3, -, h1, h2, h3, -⟩ := State.frameHeader_eq_some.mp hh
  by_cases hff : b1 = 0xFF#8
  · exact ⟨_, discard_of_ff h1 h2 h3 hff⟩
  · exact ⟨_, discard_of_ne_ff h1 h2 h3 hff⟩

/-- In SYNC a full window is passed on or shortened. -/
theorem engineSync_total (hs : s.Inv) : ∃ t, engineSync s = .next t := by
  unfold engineSync
  split
  · exact ⟨_, rfl⟩
  · obtain ⟨-, hfill, -⟩ := hs
    obtain ⟨h, hh⟩ := State.frameHeader_isSome hfill (by omega)
    rw [withFrameHeader_of_some hh]
    split
    · exact ⟨_, rfl⟩
    · exact discard_total hh

theorem engineCrc_total : ∃ t, engineCrc s = .next t := by
  unfold engineCrc
  split <;> exact ⟨_, rfl⟩

theorem engineSide_total {h : Word} (hh : s.frameHeader = some h) : ∃ t, engineSide s = .next t := by
  rw [engineSide, withFrameHeader_of_some hh]
  cases sideLen h with
  | none => exact ⟨_, rfl⟩
  | some n =>
    by_cases hlt : s.bufLen.toNat < 4 + crcLen h + n
    · exact ⟨_, if_pos hlt⟩
    · exact ⟨_, if_neg hlt⟩

theorem enginePayload_total {h : Word} (hh : s.frameHeader = some h) (hl : legal h = true) :
    ∃ t, enginePayload s = .next t := by
  rw [enginePayload_of_legal hh hl]
  split_ifs <;> exact ⟨_, rfl⟩

theorem engineTurn_total (hs : s.Inv) : ∃ t, engineTurn s = .next t := by
  have header (hi : s.phase ≠ .idle) (hy : s.phase ≠ .sync) : ∃ h, s.frameHeader = some h ∧ legal h = true :=
    ((hs.decoding hi).header hy).2
  unfold engineTurn
  split
  · exact ⟨_, rfl⟩
  cases hp : s.phase with
  | idle => exact ⟨_, rfl⟩
  | sync => exact engineSync_total hs
  | crc => exact engineCrc_total
  | side =>
    obtain ⟨h, hh, -⟩ := header (by simp [hp]) (by simp [hp])
    exact engineSide_total hh
  | payload =>
    obtain ⟨h, hh, hl⟩ := header (by simp [hp]) (by simp [hp])
    exact enginePayload_total hh hl

theorem sourceTurn_total (s : State) : ∃ t, sourceTurn s = .next t := by
  unfold sourceTurn
  split
  · split <;> exact ⟨_, rfl⟩
  · exact ⟨_, rfl⟩

theorem connectTurn_total (answers : List SrcAnswer) (s : State) : ∃ t, connectTurn answers s = .next t := by
  unfold connectTurn
  split <;> exact ⟨_, rfl⟩

theorem takeTurn_total (hs : s.Inv) (turn : Turn) : ∃ t, takeTurn turn s = .next t := by
  have ⟨hr, _⟩ := hs
  cases turn <;> rw [takeTurn]
  case reset answers => exact ⟨_, rfl⟩
  all_goals rw [inReachable_eq hr]
  case host => exact hostTurn_total hs
  case engine => exact engineTurn_total hs
  case source => exact sourceTurn_total s
  case connect answers => exact connectTurn_total answers s

/-- From every state of the invariant a step answers a next state (spec/60_exceptions.md R151). -/
theorem step_total (hs : s.Inv) : ∃ t, step s = .next t := by
  match hsched : s.sched with
  | [] => exact ⟨_, by unfold step nextTurn; rw [hsched]⟩
  | turn :: rest =>
    rw [step_of_sched hsched]
    exact takeTurn_total ((State.SameDecode.begun s rest).inv hs) turn

end

/-- Settles O48: a step from the invariant answers a next state, in the invariant. -/
theorem runsNeverStop : Obligations.RunsNeverStop := by
  intro s k
  induction k generalizing s with
  | zero => exact fun hs => ⟨s, rfl, hs⟩
  | succ k ih =>
    intro hs
    obtain ⟨t, ht⟩ := step_total hs
    rw [runSteps_next ht]
    exact ih t (stepKeepsTheInvariant s t hs ht)

end Sys2Proof.Machine
end

section
/-! PROOFS (spec/42_synchronizer.md R125 to R129). The control commands. -/

namespace Sys2Proof.Machine

/-- Settles O8. -/
theorem nopOnlyAnswers : Obligations.NopOnlyAnswers :=
  fun _ arg => ⟨decodeWord_opcode .nop arg, rfl⟩

theorem execDecode_of_idle {s : State} (hi : s.phase = .idle) : execDecode s = .next (s.startDecode.respond 0#32) := by
  rw [execDecode, s.busy_eq_false.mpr hi]; rfl

theorem execDecode_of_busy {s : State} (hb : s.phase ≠ .idle) : execDecode s = .next (s.refuse .busy) := by
  rw [execDecode, s.busy_eq_true.mpr hb]; rfl

/-- Settles O9: FBUF lists nothing once BUF_LEN is 0. -/
theorem decodeStartsOrAnswersBusy : Obligations.DecodeStartsOrAnswersBusy :=
  fun _ => ⟨fun hi => ⟨_, execDecode_of_idle hi⟩, execDecode_of_busy⟩

/-- Settles O10. -/
theorem ldprobeWritesProbe : Obligations.LdprobeWritesProbe :=
  fun word _ => ⟨decodeWord_opcode (.ldprobe 0#32) word, rfl⟩

theorem State.respond_eq_okWith (s : State) (d : Word) : s.respond d = s.okWith d.toNat := by
  rw [State.okWith, BitVec.ofNat_toNat, BitVec.setWidth_eq]; rfl

theorem execRdskip_eq (s : State) : execRdskip s = .next (s.okWith s.skip.toNat) := by
  rw [execRdskip, State.respond_eq_okWith]

/-- Settles O11: STATUS as a number. -/
theorem rdstatAnswersTheStatusLayout : Obligations.RdstatAnswersTheStatusLayout := by
  refine fun s arg => ⟨decodeWord_opcode .rdstat arg, ?_⟩
  rw [exec, execRdstat, State.respond_eq_okWith, State.status_toNat]
  rfl

/-- Settles O12: a saturated SKIP holds the largest value. -/
theorem rdskipAnswersSkip : Obligations.RdskipAnswersSkip := by
  refine fun s arg => ⟨decodeWord_opcode .rdskip arg, execRdskip_eq s, fun hs hsat => ?_⟩
  obtain ⟨-, -, -, -, -, -, -, -, -, -, hmax⟩ := hs
  rw [exec, execRdskip_eq, hmax hsat]
  rfl

end Sys2Proof.Machine
end

section
/-! PROOFS (spec/42_synchronizer.md R123, spec/10_state.md R30). Every byte taken is held or counted. -/

namespace Sys2Proof.Machine

/-- `t` holds or has counted every byte taken since `s`, unless its count is saturated. -/
def State.AccountsFor (s t : State) : Prop :=
  t.skipSat = false → s.srcTaken + (t.skip.toNat + t.bufLen.toNat) = t.srcTaken + (s.skip.toNat + s.bufLen.toNat)

section
variable {s t : State}

theorem State.accountsFor_of_eq (hskip : t.skip = s.skip) (hlen : t.bufLen = s.bufLen)
    (htaken : t.srcTaken = s.srcTaken) : s.AccountsFor t := by
  intro _
  rw [hskip, hlen, htaken]

/-- An unsaturated count is exact. -/
theorem State.skipAdd_skip_toNat {n : Nat} (hsat : (s.skipAdd n).skipSat = false) :
    (s.skipAdd n).skip.toNat = s.skip.toNat + n := by
  rw [State.skipAdd_eq] at hsat ⊢
  have hn : s.skip.toNat + n ≤ Config.skipMax := by simpa using (Bool.or_eq_false_iff.mp hsat).2
  have hlt : s.skip.toNat + n < 2 ^ 32 := Nat.lt_succ_of_le hn
  dsimp only
  rw [Nat.min_eq_left hn, BitVec.toNat_ofNat, Nat.mod_eq_of_lt hlt]

/-- A discard counts the bytes it drops from a window of four. -/
theorem discard_accountsFor (h4 : s.bufLen.toNat = 4) (h : discard s = .next t) : s.AccountsFor t := by
  obtain ⟨b1, b2, b3, -, -, -, ⟨-, rfl⟩ | ⟨-, rfl⟩⟩ := discard_next h <;> intro hsat <;>
    simp [State.skipAdd_skip_toNat hsat, h4, Nat.add_assoc]

theorem engineTurn_accountsFor (hs : s.Inv) (h : engineTurn s = .next t) : s.AccountsFor t := by
  rcases engineTurn_next h with ⟨-, rfl⟩ | ⟨-, h⟩
  · exact State.accountsFor_of_eq rfl rfl rfl
  rcases h with ⟨-, -, rfl⟩ | ⟨-, -, w, -, -, rfl⟩ | ⟨hph, h4, w, -, -, h⟩ | ⟨-, -, rfl⟩ | ⟨-, -, rfl⟩ |
    ⟨-, w, -, -, rfl⟩ | ⟨-, w, n, -, -, -, rfl⟩ | ⟨-, w, n, -, -, -, rfl⟩ | ⟨-, w, -, -, -, rfl⟩ |
    ⟨-, w, -, -, -, rfl⟩ | ⟨-, w, -, -, -, rfl⟩
  · exact State.accountsFor_of_eq rfl rfl rfl
  · exact State.accountsFor_of_eq rfl rfl rfl
  · obtain ⟨⟨-, -, -, hsync, -⟩, -⟩ := hs
    exact discard_accountsFor (Nat.le_antisymm (hsync hph) h4) h
  all_goals exact State.accountsFor_of_eq rfl rfl rfl

theorem sourceTurn_accountsFor (hs : s.Inv) (h : sourceTurn s = .next t) : s.AccountsFor t := by
  rcases sourceTurn_next h with ⟨-, rfl⟩ | ⟨-, a, rest, -, rfl⟩
  · exact State.accountsFor_of_eq rfl rfl rfl
  cases a with
  | byte b =>
    obtain ⟨⟨-, -, -, -, hle, -⟩, -⟩ := hs
    have hlen := State.append_bufLen_toNat (hle.trans_lt (by decide)) b
    intro _
    simp only [answerFetch, State.append_skip, State.append_bufLen] at hlen ⊢
    omega
  | eof | err e => exact State.accountsFor_of_eq rfl rfl rfl

end

/-- Settles O52. -/
theorem takenBytesAreHeldOrCounted : Obligations.TakenBytesAreHeldOrCounted := by
  rintro s t hs ⟨rest, hsched⟩ h hsat
  have hbegun : (s.begun rest).Inv := (State.SameDecode.begun s rest).inv hs
  have ⟨hr, _⟩ := hs
  rcases hsched with he | hsrc
  · exact engineTurn_accountsFor (s := s.begun rest) hbegun ((step_engine hr he).symm.trans h) hsat
  · exact sourceTurn_accountsFor (s := s.begun rest) hbegun ((step_source hr hsrc).symm.trans h) hsat

end Sys2Proof.Machine
end

section
/-! PROOFS (spec/42_synchronizer.md R113, spec/70_reset_and_hazards.md R155). Rounds of the engine and of a source that
answers, whatever rounds come after them. -/

namespace Sys2Proof.Machine

/-- `s` about to run `n` rounds. -/
def State.withRounds (s : State) (n : Nat) : State := { s with sched := engineRounds n }

/-- `k` rounds lead from `s` to `t`, whatever rounds come after them. -/
def State.RunsTo (s : State) (k : Nat) (t : State) : Prop :=
  ∀ n, runSteps (2 * (k + n)) (s.withRounds (k + n)) = runSteps (2 * n) (t.withRounds n)

/-- The phases in the order a decode takes them, its end last. -/
def Phase.rank : Phase → Nat
  | .sync => 0
  | .crc => 1
  | .side => 2
  | .payload => 3
  | .idle => 4

theorem Phase.rank_lt_idle {p : Phase} (hp : p ≠ .idle) : p.rank < Phase.idle.rank := by
  cases p with
  | idle => exact absurd rfl hp
  | _ => decide

/-- What a round of a decode raises: it takes a byte, drops one, moves on or ends. -/
def State.progress (s : State) : Nat := s.srcTaken + s.skip.toNat + s.phase.rank

/-- Rounds lead from `s` to `t`, no more of them than the progress they make. -/
def State.LeadsTo (s t : State) : Prop := ∃ k, k + s.progress ≤ t.progress ∧ s.RunsTo k t

section
variable {s t u : State}

theorem State.LeadsTo.refl (s : State) : s.LeadsTo s :=
  ⟨0, (Nat.zero_add _).le, fun n => by rw [Nat.zero_add]⟩

theorem State.LeadsTo.trans (h : s.LeadsTo t) (h' : t.LeadsTo u) : s.LeadsTo u := by
  obtain ⟨j, hj, hst⟩ := h
  obtain ⟨k, hk, htu⟩ := h'
  exact ⟨j + k, by omega, fun n => by rw [Nat.add_assoc, hst, htu]⟩

/-! ### One round -/

/-- A round is the engine's turn and the source's. -/
theorem runSteps_round (hs : s.Inv) {n : Nat} {v w : State}
    (he : engineTurn (s.begun (.source :: engineRounds n)) = .next v) (hv : v.sched = .source :: engineRounds n)
    (ha : sourceTurn (v.begun (engineRounds n)) = .next w) :
    runSteps (2 * (1 + n)) (s.withRounds (1 + n)) = runSteps (2 * n) w := by
  have hbegun : (s.begun (.source :: engineRounds n)).Inv := (State.SameDecode.begun s _).inv hs
  have ⟨hrs, _⟩ := hs
  have ⟨hrv, _⟩ := engineTurn_inv hbegun he
  rw [Nat.mul_add, Nat.mul_one, Nat.add_comm 2, Nat.add_comm 1]
  rw [runSteps_next ((step_engine (s := s.withRounds (n + 1)) hrs rfl).trans he),
    runSteps_next ((step_source hrv hv).trans ha)]

/-- A round in which the engine asks for no byte. -/
theorem State.RunsTo.of_engine (hs : s.Inv) (hp : t.pending = false)
    (he : ∀ rest, engineTurn (s.begun rest) = .next { t with sched := rest }) : s.RunsTo 1 t.clearOutputs :=
  fun _ => runSteps_round hs (he _) rfl (sourceTurn_of_not_pending hp)

theorem engineTurn_clearOutputs_inv (hs : s.Inv)
    (he : ∀ rest, engineTurn (s.begun rest) = .next { t with sched := rest }) : t.clearOutputs.Inv :=
  State.SameDecode.inv (s := { t with sched := [] }) rfl
    (engineTurn_inv ((State.SameDecode.begun s []).inv hs) (he []))

/-- The engine asks for the byte its phase lacks (spec/42_synchronizer.md R114). -/
theorem engineTurn_of_wantsByte (hs : s.Inv) (hp : s.pending = false) (hw : s.wantsByte = true) :
    engineTurn s = .next { s with pending := true } := by
  obtain ⟨t, ht⟩ := engineTurn_total hs
  rcases engineTurn_asksForMissing hp ht with ⟨-, rfl⟩ | ⟨hno, -⟩
  · exact ht
  · cases hno.symm.trans hw

/-- `s` with an answer taken from the source, which will give `more`, and no effect of it yet. -/
def State.taking (s : State) (more : List SrcAnswer) : State := { s.clearOutputs with pending := false, src := more }

/-- A round in which the engine asks for a byte and the source answers (spec/42_synchronizer.md R115). -/
theorem State.RunsTo.of_fetch (hs : s.Inv) (hp : s.pending = false) (hw : s.wantsByte = true) {a : SrcAnswer}
    {more : List SrcAnswer} (hsrc : s.src = a :: more) :
    s.RunsTo 1 (answerFetch a (s.taking more)) := by
  intro n
  have hbegun (rest : List Turn) : (s.begun rest).Inv := (State.SameDecode.begun s rest).inv hs
  refine (runSteps_round hs (engineTurn_of_wantsByte (hbegun _) hp hw) rfl (sourceTurn_of_pending rfl hsrc)).trans ?_
  cases a <;> rfl

theorem State.Inv.taking_decoding (hs : s.Inv) (hb : s.phase ≠ .idle) (more : List SrcAnswer) :
    (s.taking more).Decoding :=
  (State.Inv.decoding (s := s.clearOutputs) (State.SameDecode.inv rfl hs) hb).answered more

/-! ### The rounds after the end -/

/-- With no decode running a round does nothing. -/
theorem State.RunsTo.of_idle (hs : s.Inv) (hi : s.phase = .idle) : s.RunsTo 1 s.clearOutputs :=
  .of_engine (t := s.clearOutputs) hs (hs.pending_of_idle hi) fun rest => engineTurn_of_idle (s := s.begun rest) hi

theorem State.RunsTo.exists_of_idle (hs : s.Inv) (hi : s.phase = .idle) (n : Nat) :
    ∃ t, s.RunsTo n t ∧ t = { s with rsp := t.rsp, done := t.done } := by
  induction n generalizing s with
  | zero => exact ⟨s, fun n => by rw [Nat.zero_add], rfl⟩
  | succ n ih =>
    obtain ⟨t, hrun, ht⟩ := ih (s := s.clearOutputs) (State.SameDecode.inv rfl hs) hi
    refine ⟨t, fun j => ?_, ht⟩
    rw [Nat.add_comm n, Nat.add_assoc, State.RunsTo.of_idle hs hi, hrun]

/-- A decode that has ended within `n` rounds is as it was left after all of them. -/
theorem State.LeadsTo.run (h : s.LeadsTo t) (ht : t.Inv) (hi : t.phase = .idle) {n : Nat}
    (hn : t.progress ≤ n + s.progress) :
    ∃ u, runSteps (2 * n) (s.withRounds n) = .next u ∧
      u = { t with rsp := u.rsp, done := u.done, sched := u.sched } := by
  obtain ⟨k, hk, hrun⟩ := h
  obtain ⟨j, rfl⟩ : ∃ j, n = k + j := Nat.exists_eq_add_of_le (by omega)
  obtain ⟨u, hidle, hu⟩ := State.RunsTo.exists_of_idle ht hi j
  refine ⟨u.withRounds 0, (hrun j).trans (hidle 0), ?_⟩
  rw [hu]; rfl

end

end Sys2Proof.Machine
end

section
/-! PROOFS (spec/42_synchronizer.md R122). The stream function: what passing over positions does to the first legal
header. -/

namespace Sys2Proof.Machine

/-- A position and its header, counted from `n` positions earlier. -/
def shiftBy (n : Nat) (x : Nat × Word) : Nat × Word := (x.1 + n, x.2)

section
variable {b0 b1 b2 b3 : Byte} {bs : List Byte}

theorem firstLegal_of_short (h : bs.length < 4) : firstLegal bs = none := by
  match bs with
  | [] | [_] | [_, _] | [_, _, _] => rfl
  | _ :: _ :: _ :: _ :: bs => simp only [List.length_cons] at h; omega

theorem firstLegal_of_legal (h : legal (headerWord b0 b1 b2 b3) = true) :
    firstLegal (b0 :: b1 :: b2 :: b3 :: bs) = some (0, headerWord b0 b1 b2 b3) := by
  rw [firstLegal, if_pos h]

theorem firstLegal_of_not_legal (h : legal (headerWord b0 b1 b2 b3) = false) :
    firstLegal (b0 :: b1 :: b2 :: b3 :: bs) = (firstLegal (b1 :: b2 :: b3 :: bs)).map (shiftBy 1) := by
  rw [firstLegal, h, if_neg Bool.false_ne_true]; rfl

/-- A byte that is not 0xFF starts no legal header (spec/42_synchronizer.md R122 item 1). -/
theorem firstLegal_of_ne_ff (h : b0 ≠ 0xFF#8) : firstLegal (b0 :: bs) = (firstLegal bs).map (shiftBy 1) := by
  match bs with
  | b1 :: b2 :: b3 :: bs => exact firstLegal_of_not_legal (skippedPositionsAreNeverLegal b0 b1 b2 b3 h)
  | [] | [_] | [_, _] => rfl

end

/-- No legal header stands before position `p`. -/
def NoneBefore (bs : List Byte) (p : Nat) : Prop := firstLegal bs = (firstLegal (bs.drop p)).map (shiftBy p)

section
variable {bs : List Byte} {p : Nat}

theorem noneBefore_zero (bs : List Byte) : NoneBefore bs 0 := by
  rw [NoneBefore, List.drop_zero, show shiftBy 0 = id from rfl, Option.map_id, id]

/-- A position at which no legal header stands may be passed over. -/
theorem NoneBefore.succ (h : NoneBefore bs p) {b : Byte} {rest : List Byte} (hdrop : bs.drop p = b :: rest)
    (hb : firstLegal (b :: rest) = (firstLegal rest).map (shiftBy 1)) : NoneBefore bs (p + 1) := by
  have hrest : bs.drop (p + 1) = rest := by rw [← List.drop_drop, hdrop]; rfl
  rw [NoneBefore, h, hdrop, hb, hrest, Option.map_map]
  congr 1
  funext x
  simp only [shiftBy, Function.comp, Nat.add_assoc, Nat.add_comm 1]

theorem NoneBefore.eq_some (h : NoneBefore bs p) {w : Word} (hp : firstLegal (bs.drop p) = some (0, w)) :
    firstLegal bs = some (p, w) := by
  rw [h, hp, Option.map_some, shiftBy, Nat.zero_add]

theorem NoneBefore.eq_none (h : NoneBefore bs p) (hp : bs.length < p + 4) : firstLegal bs = none := by
  rw [h, firstLegal_of_short (by rw [List.length_drop]; omega), Option.map_none]

end

end Sys2Proof.Machine
end

section
/-! PROOFS (spec/42_synchronizer.md R115 to R117). A decode that reads a byte string: where its window stands, and what
each round does to it. -/

namespace Sys2Proof.Machine

/-- The block has read the string `bs` from a source that stood at `base`: it has dropped `p` bytes, it holds the next
`m`, and the source will give the rest of `bs` and then `after`. -/
structure State.Reading (s : State) (bs : List Byte) (after : List SrcAnswer) (base p m : Nat) : Prop where
  inv : s.Inv
  pending : s.pending = false
  skip : s.skip.toNat = p
  skipSat : s.skipSat = false
  bufLen : s.bufLen.toNat = m
  held : ∀ k < m, s.bufRead k = (bs.drop p)[k]?
  src : s.src = (bs.drop (p + m)).map .byte ++ after
  srcTaken : s.srcTaken = base + (p + m)
  le : p + m ≤ bs.length

/-- `t` is `s` up to the registers that the moves and the end of a decode write, the outputs and the schedule. -/
def State.SameBuffer (s t : State) : Prop :=
  t = { s with
    phase := t.phase, result := t.result, frameValid := t.frameValid, rsp := t.rsp, done := t.done, sched := t.sched }

namespace State.Reading

section
variable {s t : State} {bs : List Byte} {after : List SrcAnswer} {base p m : Nat}

theorem congr (r : s.Reading bs after base p m) (ht : t.Inv) (h : s.SameBuffer t) : t.Reading bs after base p m := by
  rw [h] at ht ⊢
  exact { r with inv := ht }

/-- A round that takes or drops a byte, moves on or ends the decode makes progress. -/
theorem leadsTo (r : s.Reading bs after base p m) {after' : List SrcAnswer} {p' m' : Nat}
    (r' : t.Reading bs after' base p' m') (h : s.RunsTo 1 t)
    (hlt : 2 * p + m + s.phase.rank < 2 * p' + m' + t.phase.rank) : s.LeadsTo t := by
  refine ⟨1, ?_, h⟩
  simp only [State.progress, r.skip, r.srcTaken, r'.skip, r'.srcTaken]
  omega

/-- The engine moves on or ends the decode. -/
theorem move (r : s.Reading bs after base p m) (h : s.SameBuffer t) (hrank : s.phase.rank < t.phase.rank)
    (he : ∀ rest, engineTurn (s.begun rest) = .next { t with sched := rest }) :
    s.LeadsTo t.clearOutputs ∧ t.clearOutputs.Reading bs after base p m := by
  have hrun : s.RunsTo 1 t.clearOutputs := .of_engine r.inv (by rw [h]; exact r.pending) he
  have hread : t.clearOutputs.Reading bs after base p m :=
    r.congr (engineTurn_clearOutputs_inv r.inv he) (by rw [State.SameBuffer, h]; rfl)
  exact ⟨r.leadsTo hread hrun (Nat.add_lt_add_left hrank _), hread⟩

/-- The engine moves on to a later phase. -/
theorem moveTo (r : s.Reading bs after base p m) {ph : Phase} (hrank : s.phase.rank < ph.rank)
    (he : ∀ rest, engineTurn (s.begun rest) = .next { s.begun rest with phase := ph }) :
    ∃ t, s.LeadsTo t ∧ t.phase = ph ∧ t.frameHeader = s.frameHeader ∧ t.Reading bs after base p m := by
  obtain ⟨hlead, hread⟩ := r.move (t := { s.clearOutputs with phase := ph }) rfl hrank he
  exact ⟨_, hlead, rfl, State.frameHeader_congr rfl rfl, hread⟩

/-- A byte that is lacking is taken from the source (spec/42_synchronizer.md R115). -/
theorem fetch (r : s.Reading bs after base p m) (hw : s.wantsByte = true) (hlt : p + m < bs.length) :
    ∃ t, s.LeadsTo t ∧ t.phase = s.phase ∧ t.Reading bs after base p (m + 1) := by
  have hsrc : s.src = .byte bs[p + m] :: ((bs.drop (p + m + 1)).map .byte ++ after) := by
    rw [r.src, List.drop_eq_getElem_cons hlt]; rfl
  generalize hb : bs[p + m] = b at hsrc
  generalize hmore : (bs.drop (p + m + 1)).map SrcAnswer.byte ++ after = more at hsrc
  have d : (s.taking more).Decoding := r.inv.taking_decoding (State.phase_of_wantsByte hw) more
  have hlen : s.bufLen.toNat < 4095 := d.bufLen_le.trans_lt (by decide)
  have hread : (answerFetch (.byte b) (s.taking more)).Reading bs after base p (m + 1) := {
    inv := answerFetch_inv d rfl hw (.byte b)
    pending := rfl
    skip := r.skip
    skipSat := r.skipSat
    bufLen := (State.append_bufLen_toNat hlen b).trans (congrArg (· + 1) r.bufLen)
    held := fun k hk => by
      obtain hk | rfl := Nat.lt_succ_iff_lt_or_eq.mp hk
      · exact (State.bufRead_append_below (s := s.taking more) hlen b (hk.trans_eq r.bufLen.symm)).trans (r.held k hk)
      · rw [List.getElem?_drop, List.getElem?_eq_getElem hlt, hb, ← r.bufLen]
        exact State.bufRead_append_last (s := s.taking more) hlen b
    src := hmore.symm
    srcTaken := congrArg (· + 1) r.srcTaken
    le := hlt }
  have hprogress : 2 * p + m + s.phase.rank < 2 * p + (m + 1) + s.phase.rank := by omega
  exact ⟨_, r.leadsTo hread (.of_fetch r.inv r.pending hw hsrc) hprogress, rfl, hread⟩

/-- RESULT of a decode that its source ends (spec/42_synchronizer.md R115). -/
theorem lastAnswer {last : SrcAnswer} (r : s.Reading bs (last :: after) base p m) (hw : s.wantsByte = true)
    (hend : bs.length ≤ p + m) (hlast : ∀ b, last ≠ .byte b) :
    ∃ t, s.LeadsTo t ∧ t.phase = .idle ∧
      t.result = endedBy last (if s.phase = .sync then .noSyncFound else .prematureEos) ∧
      (∀ e, last = .err e → t.srcErr = e) ∧ t.Reading bs after base p m := by
  have hb := State.phase_of_wantsByte hw
  have hsrc : s.src = last :: after := by rw [r.src, List.drop_eq_nil_of_le hend]; rfl
  have hrun := State.RunsTo.of_fetch r.inv r.pending hw hsrc
  have hinv := answerFetch_inv (r.inv.taking_decoding hb after) rfl hw last
  have hafter : after = (bs.drop (p + m)).map SrcAnswer.byte ++ after := by rw [List.drop_eq_nil_of_le hend]; rfl
  have hrank := Phase.rank_lt_idle hb
  cases last with
  | byte b => exact absurd rfl (hlast b)
  | eof =>
    have hread : (answerFetch .eof (s.taking after)).Reading bs after base p m :=
      { r with inv := hinv, pending := rfl, src := hafter }
    exact ⟨_, r.leadsTo hread hrun (Nat.add_lt_add_left hrank _), rfl, rfl, nofun, hread⟩
  | err e =>
    have hread : (answerFetch (.err e) (s.taking after)).Reading bs after base p m :=
      { r with inv := hinv, pending := rfl, src := hafter }
    exact ⟨_, r.leadsTo hread hrun (Nat.add_lt_add_left hrank _), rfl, rfl,
      fun e' he => SrcAnswer.err.inj he, hread⟩

end

end State.Reading

end Sys2Proof.Machine
end

section
/-! PROOFS (spec/42_synchronizer.md R116, R117, R122). The search for the first legal header. -/

namespace Sys2Proof.Machine

namespace State.Reading

section
variable {s t : State} {bs : List Byte} {after : List SrcAnswer} {base p m : Nat}

/-- The window holds the next four bytes of the string. -/
theorem window (r : s.Reading bs after base p m) (h4 : 4 ≤ m) : ∃ b0 b1 b2 b3 rest,
    bs.drop p = b0 :: b1 :: b2 :: b3 :: rest ∧ s.frameHeader = some (headerWord b0 b1 b2 b3) ∧
    s.bufRead 1 = some b1 ∧ s.bufRead 2 = some b2 ∧ s.bufRead 3 = some b3 := by
  have hlen : 4 ≤ (bs.drop p).length := by rw [List.length_drop]; have := r.le; omega
  have held := r.held
  match hdrop : bs.drop p with
  | b0 :: b1 :: b2 :: b3 :: rest =>
    rw [hdrop] at held
    have h0 : s.bufRead 0 = some b0 := held 0 (by omega)
    have h1 : s.bufRead 1 = some b1 := held 1 (by omega)
    have h2 : s.bufRead 2 = some b2 := held 2 (by omega)
    have h3 : s.bufRead 3 = some b3 := held 3 (by omega)
    exact ⟨b0, b1, b2, b3, rest, rfl, State.frameHeader_eq_some.mpr ⟨b0, b1, b2, b3, h0, h1, h2, h3, rfl⟩, h1, h2, h3⟩
  | [] | [_] | [_, _] | [_, _, _] => simp [hdrop] at hlen

/-- The window moves on by `d` positions. -/
theorem slide (r : s.Reading bs after base p 4) (hbs : bs.length < 2 ^ 32) {d : Nat} (hd : 0 < d) (hdm : m + d = 4)
    (hphase : s.phase = .sync) (hlen : t.bufLen.toNat = m) (held : ∀ k < m, t.bufRead k = s.bufRead (d + k))
    (ht : t = { s.clearOutputs with bufLen := t.bufLen, fbuf := t.fbuf })
    (he : ∀ rest, engineTurn (s.begun rest) = .next (({ t with sched := rest } : State).skipAdd d)) :
    ∃ u, s.LeadsTo u ∧ u.phase = .sync ∧ u.Reading bs after base (p + d) m := by
  have hle := r.le
  have hskip : t.skip.toNat + d = p + d := by rw [ht]; exact congrArg (· + d) r.skip
  have hmax : t.skip.toNat + d ≤ Config.skipMax := by rw [hskip, Config.skipMax]; omega
  have he' (rest : List Turn) := (he rest).trans (congrArg Host.Outcome.next
    (State.skipAdd_exact (s := { t with sched := rest }) hmax))
  have hread : ({ t with skip := BitVec.ofNat 32 (t.skip.toNat + d) } : State).clearOutputs.Reading bs after base
      (p + d) m := {
    inv := engineTurn_clearOutputs_inv (t := { t with skip := _ }) r.inv he'
    pending := by rw [ht]; exact r.pending
    skip := by rw [hskip]; exact (BitVec.toNat_ofNat ..).trans (Nat.mod_eq_of_lt (by omega))
    skipSat := by rw [ht]; exact r.skipSat
    bufLen := hlen
    held := fun k hk => by
      refine (held k hk).trans ((r.held _ (by omega)).trans ?_)
      rw [List.getElem?_drop, List.getElem?_drop, Nat.add_assoc]
    src := by rw [ht, Nat.add_assoc, Nat.add_comm d, hdm]; exact r.src
    srcTaken := by rw [ht, Nat.add_assoc, Nat.add_comm d, hdm]; exact r.srcTaken
    le := by omega }
  have hsync : t.phase = .sync := by rw [ht]; exact hphase
  refine ⟨_, r.leadsTo hread (.of_engine (t := { t with skip := _ }) r.inv hread.pending he') ?_, hsync, hread⟩
  rw [hphase, State.clearOutputs_phase, hsync]
  omega

/-- A window that is not legal is passed over, with the next position too where no header can start there
(spec/42_synchronizer.md R117). -/
theorem discard (r : s.Reading bs after base p 4) (hbs : bs.length < 2 ^ 32) (hphase : s.phase = .sync)
    (hnone : NoneBefore bs p) (hl : ∀ h, s.frameHeader = some h → legal h = false) :
    ∃ d m t, m + d = 4 ∧ 0 < d ∧ NoneBefore bs (p + d) ∧ s.LeadsTo t ∧ t.phase = .sync ∧
      t.Reading bs after base (p + d) m := by
  obtain ⟨b0, b1, b2, b3, rest, hdrop, hh, h1, h2, h3⟩ := r.window le_rfl
  have hnone1 : NoneBefore bs (p + 1) := hnone.succ hdrop (firstLegal_of_not_legal (hl _ hh))
  have hturn (rest : List Turn) : engineTurn (s.begun rest) = Machine.discard (s.begun rest) :=
    (engineTurn_sync (s := s.begun rest) r.pending hphase).trans
      (engineSync_of_not_legal (s := s.begun rest) hh (hl _ hh))
  by_cases hff : b1 = 0xFF#8
  · obtain ⟨hd1, hd2, hd3⟩ := s.clearOutputs.dropOne_bufRead b1 b2 b3
    obtain ⟨t, ht⟩ := r.slide (m := 3) (d := 1) (t := s.clearOutputs.dropOne b1 b2 b3) hbs (by omega) rfl hphase rfl
      (fun
        | 0, _ => hd1.trans h1.symm
        | 1, _ => hd2.trans h2.symm
        | 2, _ => hd3.trans h3.symm)
      rfl fun rest => (hturn rest).trans (discard_of_ff (s := s.begun rest) h1 h2 h3 hff)
    exact ⟨1, 3, t, rfl, by omega, hnone1, ht⟩
  · have hdrop1 : bs.drop (p + 1) = b1 :: b2 :: b3 :: rest := by rw [← List.drop_drop, hdrop]; rfl
    obtain ⟨hd2, hd3⟩ := s.clearOutputs.dropTwo_bufRead b2 b3
    obtain ⟨t, ht⟩ := r.slide (m := 2) (d := 2) (t := s.clearOutputs.dropTwo b2 b3) hbs (by omega) rfl hphase rfl
      (fun
        | 0, _ => hd2.trans h2.symm
        | 1, _ => hd3.trans h3.symm)
      rfl fun rest => (hturn rest).trans (discard_of_ne_ff (s := s.begun rest) h1 h2 h3 hff)
    exact ⟨2, 2, t, rfl, by omega, hnone1.succ hdrop1 (firstLegal_of_ne_ff hff), ht⟩

/-- The search has ended at the first legal header `h`, at position `p`. -/
structure Found (s : State) (bs : List Byte) (after : List SrcAnswer) (base p : Nat) (h : Word) : Prop where
  reading : s.Reading bs after base p 4
  first : firstLegal bs = some (p, h)
  header : s.frameHeader = some h
  phase : s.phase = if crcPresent h then .crc else .side

/-- The search has run out of bytes, and the string has no legal header. -/
structure Exhausted (s : State) (bs : List Byte) (after : List SrcAnswer) (base p m : Nat) : Prop where
  reading : s.Reading bs after base p m
  none : firstLegal bs = none
  phase : s.phase = .sync
  short : m ≤ 3
  all : p + m = bs.length

/-- A legal window ends the search (spec/42_synchronizer.md R116). -/
theorem legalWindow (r : s.Reading bs after base p 4) (hphase : s.phase = .sync) (hnone : NoneBefore bs p) {h : Word}
    (hh : s.frameHeader = some h) (hl : legal h = true) : ∃ t, s.LeadsTo t ∧ Found t bs after base p h := by
  obtain ⟨b0, b1, b2, b3, rest, hdrop, hh', -⟩ := r.window le_rfl
  cases hh.symm.trans hh'
  obtain ⟨t, hst, ht, hth, hread⟩ := r.moveTo
    (ph := if crcPresent (headerWord b0 b1 b2 b3) then .crc else .side) (by rw [hphase]; split <;> decide)
    fun rest => (engineTurn_sync (s := s.begun rest) r.pending hphase).trans
      (engineSync_of_legal (s := s.begun rest) hh hl)
  exact ⟨t, hst, hread, hnone.eq_some (by rw [hdrop, firstLegal_of_legal hl]), hth.trans hh, ht⟩

/-- The search, from any point of it: each round takes a byte or passes over a position (spec/42_synchronizer.md
R122). -/
theorem search {s : State} {p m : Nat} (r : s.Reading bs after base p m) (hbs : bs.length < 2 ^ 32)
    (hphase : s.phase = .sync) (hnone : NoneBefore bs p) :
    ∃ t, s.LeadsTo t ∧ ((∃ q h, Found t bs after base q h) ∨ ∃ q k, Exhausted t bs after base q k) := by
  have hle := r.le
  have hm : m ≤ 4 := by
    obtain ⟨⟨-, -, -, hsync, -⟩, -⟩ := r.inv
    exact r.bufLen.ge.trans (hsync hphase)
  by_cases h4 : m < 4
  · by_cases hlt : p + m < bs.length
    · obtain ⟨t, hst, ht, hread⟩ := r.fetch ((State.wantsByte_sync hphase).mpr (r.bufLen.trans_lt h4)) hlt
      obtain ⟨u, htu, hu⟩ := hread.search hbs (ht.trans hphase) hnone
      exact ⟨u, hst.trans htu, hu⟩
    · exact ⟨s, .refl s, .inr ⟨p, m, r, hnone.eq_none (by omega), hphase, by omega, by omega⟩⟩
  · obtain rfl : m = 4 := by omega
    obtain ⟨b0, b1, b2, b3, rest, -, hh, -⟩ := r.window le_rfl
    cases hl : legal (headerWord b0 b1 b2 b3) with
    | true =>
      obtain ⟨t, hst, ht⟩ := r.legalWindow hphase hnone hh hl
      exact ⟨t, hst, .inl ⟨p, _, ht⟩⟩
    | false =>
      obtain ⟨d, m, t, hdm, hd, hnone', hst, ht, hread⟩ := r.discard hbs hphase hnone fun h hh' => by
        cases hh.symm.trans hh'; exact hl
      obtain ⟨u, htu, hu⟩ := hread.search hbs ht hnone'
      exact ⟨u, hst.trans htu, hu⟩
termination_by 2 * bs.length - (2 * p + m)

end

end State.Reading

end Sys2Proof.Machine
end

section
/-! PROOFS (spec/42_synchronizer.md R114 to R122). What a whole decode makes of the stream. -/

namespace Sys2Proof.Machine

/-! ### The start of a decode -/

/-- A decode that has just been started reads the string of the source it is given. -/
theorem State.DecodeStarted.reading {s : State} (hs : s.DecodeStarted) (bs : List Byte) (after : List SrcAnswer) :
    ({ s with src := bs.map .byte ++ after } : State).Reading bs after s.srcTaken 0 0 := by
  obtain ⟨hinv, -, hlen, hpending, hskip, hsat⟩ := hs
  exact {
    inv := State.SameDecode.inv (s := s) rfl hinv
    pending := hpending
    skip := congrArg BitVec.toNat hskip
    skipSat := hsat
    bufLen := congrArg BitVec.toNat hlen
    held := nofun
    src := rfl
    srcTaken := rfl
    le := Nat.zero_le _ }

/-- Settles O55: the search ends at the first legal header of the string. -/
theorem searchEndsAtTheFirstLegalHeader : Obligations.SearchEndsAtTheFirstLegalHeader := by
  intro s bs after p h hs hbs hfirst
  have ⟨_, hphase, _⟩ := hs
  obtain ⟨t, ⟨n, -, hrun⟩, ⟨q, w, hfound⟩ | ⟨q, k, hend⟩⟩ :=
    (hs.reading bs after).search hbs hphase (noneBefore_zero bs)
  · cases hfound.first.symm.trans hfirst
    have hread := hfound.reading
    have hsrcTaken : t.srcTaken = s.srcTaken + p + 4 := by rw [hread.srcTaken, Nat.add_assoc]
    have htphase := hfound.phase
    simp only [crcPresent_iff] at htphase
    exact ⟨n, t.withRounds 0, hrun 0, htphase, hread.skip, hread.skipSat,
      hread.bufLen, State.holdsHeader_iff.mpr hfound.header, hsrcTaken, hread.src⟩
  · cases hend.none.symm.trans hfirst

/-! ### The phases after the search -/

theorem State.wantsByte_iff_need {s : State} {h : Word} (hh : s.frameHeader = some h) {c : Nat}
    (hc : need s.phase h = some c) : s.wantsByte = true ↔ s.bufLen.toNat < c := by
  cases hp : s.phase <;> rw [hp] at hc
  case idle => cases hc
  case sync => cases hc; exact State.wantsByte_sync hp
  case crc => cases hc; exact State.wantsByte_crc hp
  case side =>
    obtain ⟨n, hn, rfl⟩ := Option.map_eq_some_iff.mp hc
    exact State.wantsByte_side hp hh hn
  case payload => cases hc; exact State.wantsByte_payload hp hh

theorem need_side {h : Word} (hl : legal h = true) : need .side h = some (headLength h) := by
  obtain ⟨n, hn⟩ := sideLen_of_legal hl
  rw [need, hn, headLength_eq hn]; rfl

section
variable {bs : List Byte} {last : SrcAnswer} {p : Nat} {h : Word}

theorem expectedResult_of_first (hfirst : firstLegal bs = some (p, h)) (last : SrcAnswer) : expectedResult bs last =
    if bs.length < p + headLength h then endedBy last .prematureEos
    else if frameSize h < headLength h then .frameTooShort
    else if bs.length < p + frameSize h then endedBy last .prematureEos
    else .ok := by
  rw [expectedResult, hfirst]

theorem expectedTaken_of_first (hfirst : firstLegal bs = some (p, h)) :
    expectedTaken bs = min bs.length (p + max (headLength h) (frameSize h)) := by
  rw [expectedTaken, hfirst]

end

/-- The decode of `bs` and `last` has ended as reading the string says, with `p` bytes dropped and `m` held. -/
structure State.Ended (s : State) (bs : List Byte) (last : SrcAnswer) (base p m : Nat) : Prop where
  phase : s.phase = .idle
  result : s.result = expectedResult bs last
  srcErr : ∀ e, last = .err e → s.result = .sourceError → s.srcErr = e
  taken : p + m = expectedTaken bs
  reading : ∃ after, s.Reading bs after base p m

/-- Rounds lead from `s` to such an end. -/
def State.Ends (s : State) (bs : List Byte) (last : SrcAnswer) (base p : Nat) : Prop :=
  ∃ t m, s.LeadsTo t ∧ t.Ended bs last base p m

theorem State.LeadsTo.ends {s t : State} {bs : List Byte} {last : SrcAnswer} {base p : Nat} (hst : s.LeadsTo t)
    (h : t.Ends bs last base p) : s.Ends bs last base p := by
  obtain ⟨u, m, htu, hu⟩ := h
  exact ⟨u, m, hst.trans htu, hu⟩

namespace State.Reading

section
variable {s t : State} {bs : List Byte} {after : List SrcAnswer} {last : SrcAnswer} {base p m c : Nat} {h : Word}

/-- The header held is the string's at `p`. -/
theorem frameHeader_eq {after' : List SrcAnswer} {m' : Nat} (r : s.Reading bs after base p m)
    (r' : t.Reading bs after' base p m') (h4 : 4 ≤ m) (h4' : 4 ≤ m') : t.frameHeader = s.frameHeader := by
  obtain ⟨b0, b1, b2, b3, rest, hdrop, hh, -⟩ := r.window h4
  obtain ⟨c0, c1, c2, c3, rest', hdrop', hh', -⟩ := r'.window h4'
  cases hdrop.symm.trans hdrop'
  rw [hh, hh']

/-- The engine fills its phase's byte count, or the source runs out of bytes (spec/42_synchronizer.md R114). -/
theorem fill {s : State} {m : Nat} (r : s.Reading bs after base p m) (h4 : 4 ≤ m) (hh : s.frameHeader = some h)
    (hc : need s.phase h = some c) (hmc : m ≤ c) :
    ∃ t k, s.LeadsTo t ∧ t.phase = s.phase ∧ t.frameHeader = some h ∧ t.Reading bs after base p k ∧
      (k = c ∨ k < c ∧ p + k = bs.length) := by
  have hle := r.le
  by_cases hlt : m < c ∧ p + m < bs.length
  · obtain ⟨hlt, hmore⟩ := hlt
    obtain ⟨t, hst, ht, hread⟩ := r.fetch ((State.wantsByte_iff_need hh hc).mpr (r.bufLen.trans_lt hlt)) hmore
    obtain ⟨u, k, htu, hu, hrest⟩ := hread.fill (by omega) ((r.frameHeader_eq hread h4 (by omega)).trans hh)
      (ht ▸ hc) hlt
    exact ⟨u, k, hst.trans htu, hu.trans ht, hrest⟩
  · exact ⟨s, m, .refl s, rfl, hh, r, by omega⟩
termination_by c - m

/-- A phase after the search ends with its byte count filled, or the decode ends with its source's last answer. -/
theorem ends_of_fill (r : s.Reading bs (last :: after) base p m) (h4 : 4 ≤ m) (hh : s.frameHeader = some h)
    (hc : need s.phase h = some c) (hmc : m ≤ c) (hsync : s.phase ≠ .sync) (hlast : ∀ b, last ≠ .byte b)
    (hshort : bs.length < p + c → expectedResult bs last = endedBy last .prematureEos ∧ expectedTaken bs = bs.length)
    (hfull : ∀ t : State, t.phase = s.phase → t.frameHeader = some h → t.Reading bs (last :: after) base p c →
      t.Ends bs last base p) : s.Ends bs last base p := by
  obtain ⟨t, k, hst, ht, hth, hread, rfl | ⟨hlt, hall⟩⟩ := r.fill h4 hh hc hmc
  · exact hst.ends (hfull t ht hth hread)
  · obtain ⟨hresult, htaken⟩ := hshort (by omega)
    have hw : t.wantsByte = true := (State.wantsByte_iff_need hth (ht ▸ hc)).mpr (hread.bufLen.trans_lt hlt)
    obtain ⟨u, htu, hidle, hu, herr, hend⟩ := hread.lastAnswer hw hall.ge hlast
    rw [if_neg (ht ▸ hsync), ← hresult] at hu
    exact ⟨u, k, hst.trans htu, hidle, hu, fun e he _ => herr e he, hall.trans htaken.symm, after, hend⟩

/-- The engine ends the decode. -/
theorem ends_of_finish (r : s.Reading bs after base p m) (hb : s.phase ≠ .idle) {k : DecodeResult}
    (he : ∀ rest, engineTurn (s.begun rest) = .next ((s.begun rest).finish k)) (hk : k = expectedResult bs last)
    (hsource : k ≠ .sourceError) (htaken : p + m = expectedTaken bs) : s.Ends bs last base p := by
  obtain ⟨hlead, hread⟩ := r.move (t := s.clearOutputs.finish k) rfl (Phase.rank_lt_idle hb) he
  exact ⟨_, m, hlead, rfl, hk, fun _ _ h => absurd h hsource, htaken, after, hread⟩

section
variable (hl : legal h = true) (hfirst : firstLegal bs = some (p, h)) (hlast : ∀ b, last ≠ .byte b)
include hl hfirst hlast

/-- PAYLOAD, from the end of the side info (spec/42_synchronizer.md R120). -/
theorem ends_of_payload (r : s.Reading bs (last :: after) base p (headLength h)) (hphase : s.phase = .payload)
    (hh : s.frameHeader = some h) : s.Ends bs last base p := by
  have hle := r.le
  have h4 : 4 ≤ headLength h := by have := four_add_crcLen_le_headLength h; omega
  have hresult := expectedResult_of_first hfirst last
  have htaken := expectedTaken_of_first hfirst
  rw [if_neg (by omega)] at hresult
  have hturn {t : State} (ht : t.phase = .payload) (hth : t.frameHeader = some h) (hp : t.pending = false)
      (rest : List Turn) := (engineTurn_payload (s := t.begun rest) hp ht).trans
        (enginePayload_of_legal (s := t.begun rest) hth hl)
  by_cases hshort : frameSize h < headLength h
  · rw [if_pos hshort] at hresult
    exact r.ends_of_finish (by simp [hphase])
      (fun rest => (hturn hphase hh r.pending rest).trans (if_pos (hshort.trans_eq r.bufLen.symm)))
      hresult.symm (by decide) (by omega)
  · rw [if_neg hshort] at hresult
    refine r.ends_of_fill h4 hh (c := frameSize h) (by rw [hphase]; rfl) (by omega) (by simp [hphase]) hlast
      (fun hlt => ⟨hresult.trans (if_pos hlt), by omega⟩) fun t ht hth hread => ?_
    have hlen : t.bufLen.toNat = frameSize h := hread.bufLen
    have hle := hread.le
    rw [hphase] at ht
    rw [if_neg (by omega)] at hresult
    exact hread.ends_of_finish (by simp [ht])
      (fun rest => (hturn ht hth hread.pending rest).trans ((if_neg hlen.not_gt).trans (if_neg hlen.not_lt)))
      hresult.symm (by decide) (by omega)

/-- SIDE, from any point of it (spec/42_synchronizer.md R119). -/
theorem ends_of_side (r : s.Reading bs (last :: after) base p m) (hphase : s.phase = .side)
    (hh : s.frameHeader = some h) (h4 : 4 ≤ m) (hm : m ≤ headLength h) : s.Ends bs last base p := by
  have hresult := expectedResult_of_first hfirst last
  have htaken := expectedTaken_of_first hfirst
  refine r.ends_of_fill h4 hh (c := headLength h) (by rw [hphase]; exact need_side hl) hm (by simp [hphase]) hlast
    (fun hlt => ⟨hresult.trans (if_pos hlt), by omega⟩) fun t ht hth hread => ?_
  rw [hphase] at ht
  obtain ⟨n, hn⟩ := sideLen_of_legal hl
  have hlen : 4 + crcLen h + n ≤ t.bufLen.toNat := by rw [hread.bufLen, headLength_eq hn]
  obtain ⟨u, htu, hu, huh, hread'⟩ := hread.moveTo (ph := .payload) (by rw [ht]; decide)
    fun rest => (engineTurn_side (s := t.begun rest) hread.pending ht).trans
      (engineSide_of_le (s := t.begun rest) hth hn hlen)
  exact htu.ends (hread'.ends_of_payload hl hfirst hlast hu (huh.trans hth))

/-- CRC, from its start (spec/42_synchronizer.md R118). -/
theorem ends_of_crc (r : s.Reading bs (last :: after) base p 4) (hphase : s.phase = .crc)
    (hh : s.frameHeader = some h) (hcrc : crcPresent h = true) : s.Ends bs last base p := by
  have hresult := expectedResult_of_first hfirst last
  have htaken := expectedTaken_of_first hfirst
  have h6 : 6 ≤ headLength h := by
    have hcl : crcLen h = 2 := if_pos hcrc
    have := four_add_crcLen_le_headLength h
    omega
  refine r.ends_of_fill le_rfl hh (c := 6) (by rw [hphase]; rfl) (by omega) (by simp [hphase]) hlast
    (fun hlt => ⟨hresult.trans (if_pos (by omega)), by omega⟩) fun t ht hth hread => ?_
  rw [hphase] at ht
  obtain ⟨u, htu, hu, huh, hread'⟩ := hread.moveTo (ph := .side) (by rw [ht]; decide)
    fun rest => (engineTurn_crc (s := t.begun rest) hread.pending ht).trans
      (engineCrc_of_le (s := t.begun rest) hread.bufLen.ge)
  exact htu.ends (hread'.ends_of_side hl hfirst hlast hu (huh.trans hth) (by omega) h6)

end

/-- With the string used up, the source's last answer ends the search. -/
theorem Exhausted.lastAnswer (x : Exhausted s bs (last :: after) base p m) (hlast : ∀ b, last ≠ .byte b) :
    ∃ t, s.LeadsTo t ∧ t.phase = .idle ∧ t.result = endedBy last .noSyncFound ∧ (∀ e, last = .err e → t.srcErr = e) ∧
      t.Reading bs after base p m := by
  have hw : s.wantsByte = true :=
    (State.wantsByte_sync x.phase).mpr (x.reading.bufLen.trans_lt (Nat.lt_succ_of_le x.short))
  simpa only [x.phase, if_true] using x.reading.lastAnswer hw x.all.ge hlast

theorem Exhausted.ends (x : Exhausted s bs (last :: after) base p m) (hlast : ∀ b, last ≠ .byte b) :
    s.Ends bs last base p := by
  obtain ⟨t, hst, hidle, hresult, herr, hread⟩ := x.lastAnswer hlast
  have hexpected : expectedResult bs last = endedBy last .noSyncFound := by rw [expectedResult, x.none]
  have htaken : expectedTaken bs = bs.length := by rw [expectedTaken, x.none]
  exact ⟨t, m, hst, hidle, hresult.trans hexpected.symm, fun e he _ => herr e he, x.all.trans htaken.symm, after,
    hread⟩

/-- The decode from the end of its search (spec/42_synchronizer.md R116). -/
theorem Found.ends (f : Found s bs (last :: after) base p h) (hlast : ∀ b, last ≠ .byte b) :
    s.Ends bs last base p := by
  have hl : legal h = true := by
    have hi : s.phase ≠ .idle := by rw [f.phase]; split <;> decide
    have hy : s.phase ≠ .sync := by rw [f.phase]; split <;> decide
    obtain ⟨-, w, hw, hl⟩ := (f.reading.inv.decoding hi).header hy
    cases f.header.symm.trans hw
    exact hl
  have h4 := four_add_crcLen_le_headLength h
  cases hcrc : crcPresent h with
  | true => exact f.reading.ends_of_crc hl f.first hlast (f.phase.trans (if_pos hcrc)) f.header hcrc
  | false =>
    exact f.reading.ends_of_side hl f.first hlast (f.phase.trans (by rw [hcrc]; rfl)) f.header le_rfl (by omega)

end

end State.Reading

/-! ### The whole decode -/

/-- FRAME_VALID stands with the outcome OK alone (spec/60_exceptions.md R136). -/
theorem State.Inv.frameValid_eq {s : State} (hs : s.Inv) : s.frameValid = (s.result == .ok) := by
  obtain ⟨⟨hframe, -⟩, -, -, -, hok, -⟩ := hs
  refine Bool.eq_iff_iff.mpr ⟨fun hv => ?_, fun hr => hok (eq_of_beq hr)⟩
  obtain ⟨-, hr, -⟩ := hframe hv
  exact beq_iff_eq.mpr hr

section
variable {s t : State} {bs : List Byte} {after : List SrcAnswer} {last : SrcAnswer} {base p m : Nat}

/-- The rounds of a whole decode suffice: the string is taken once and passed over once. -/
theorem State.Reading.run (r : t.Reading bs after base p m) (hi : t.phase = .idle) (hst : s.LeadsTo t)
    {answers : List SrcAnswer} (r₀ : s.Reading bs answers base 0 0) :
    ∃ u, runSteps (2 * (2 * bs.length + 5)) (s.withRounds (2 * bs.length + 5)) = .next u ∧
      u.phase = .idle ∧ u.result = t.result ∧ u.srcErr = t.srcErr ∧ u.Reading bs after base p m := by
  have hle := r.le
  obtain ⟨u, hrun, hu⟩ := hst.run r.inv hi (n := 2 * bs.length + 5) (by
    rw [State.progress, State.progress, r.skip, r.srcTaken, hi, Phase.rank, r₀.srcTaken]
    omega)
  have hinv : u.Inv := State.SameDecode.inv (s := t) (by rw [State.SameDecode, hu]) r.inv
  refine ⟨u, hrun, ?_, ?_, ?_, r.congr hinv (by rw [State.SameBuffer, hu])⟩ <;> rw [hu]
  exact hi

end

/-- Settles O56: the search runs out of bytes, and Eof ends the decode. -/
theorem streamWithoutHeaderEndsInNoSyncFound : Obligations.StreamWithoutHeaderEndsInNoSyncFound := by
  intro s bs after hs hbs hnone
  have ⟨_, hphase, _⟩ := hs
  have r₀ := hs.reading bs (.eof :: after)
  obtain ⟨t, hst, ⟨q, w, hfound⟩ | ⟨q, k, hend⟩⟩ := r₀.search hbs hphase (noneBefore_zero bs)
  · cases hfound.first.symm.trans hnone
  · obtain ⟨u, htu, hidle, hu, -, hread⟩ := hend.lastAnswer nofun
    obtain ⟨v, hrun, hv, hvu, -, hread⟩ := hread.run hidle (hst.trans htu) r₀
    have hresult : v.result = .noSyncFound := hvu.trans hu
    have hall := hend.all
    refine ⟨v, hrun, hv, hresult, ?_, hread.bufLen.trans_le hend.short, ?_, ?_, ?_⟩
    · rw [hread.inv.frameValid_eq, hresult]; rfl
    · rw [hread.skip, hread.bufLen, hall]
    · rw [hread.srcTaken, hall]
    · rw [hread.src, hall, List.drop_length]; rfl

/-- A decode that is expected to end with OK takes all bytes up to the frame's end. -/
theorem expectedTaken_of_ok {bs : List Byte} {last : SrcAnswer} {p : Nat} {h : Word}
    (hfirst : firstLegal bs = some (p, h)) (hok : expectedResult bs last = .ok) :
    expectedTaken bs = p + frameSize h := by
  have hearly : endedBy last .prematureEos ≠ .ok := by cases last <;> simp [endedBy]
  rw [expectedResult_of_first hfirst] at hok
  rw [expectedTaken_of_first hfirst]
  split_ifs at hok
  · exact absurd hok hearly
  · exact absurd hok hearly
  · omega

/-- From its start a decode ends as reading the string says, with the bytes before the first legal header dropped. -/
theorem State.DecodeStarted.ends {s : State} (hs : s.DecodeStarted) {bs : List Byte} (hbs : bs.length < 2 ^ 32)
    {last : SrcAnswer} (hlast : ∀ b, last ≠ .byte b) :
    ∃ p, ({ s with src := bs.map .byte ++ [last] } : State).Ends bs last s.srcTaken p ∧
      ∀ q h, firstLegal bs = some (q, h) → p = q := by
  have ⟨_, hphase, _⟩ := hs
  obtain ⟨t, hst, ⟨p, w, hfound⟩ | ⟨p, k, hend⟩⟩ := (hs.reading bs [last]).search hbs hphase (noneBefore_zero bs)
  · refine ⟨p, hst.ends (hfound.ends hlast), fun q h hq => ?_⟩
    cases hfound.first.symm.trans hq
    rfl
  · refine ⟨p, hst.ends (hend.ends hlast), fun q h hq => ?_⟩
    cases hend.none.symm.trans hq

/-- Settles O57. -/
theorem decodeRefinesTheStreamReading : Obligations.DecodeRefinesTheStreamReading := by
  intro s bs last hs hbs hlast
  obtain ⟨p, ⟨t, m, hst, hend⟩, hfirst⟩ := hs.ends hbs hlast
  obtain ⟨after, hread⟩ := hend.reading
  obtain ⟨u, hrun, hidle, hut, herr, hread⟩ := hread.run hend.phase hst (hs.reading bs [last])
  have hresult : u.result = expectedResult bs last := hut.trans hend.result
  refine ⟨u, hrun, hidle, hresult, ?_, ?_, ?_, fun q h hq => ?_⟩
  · rw [hread.inv.frameValid_eq, hresult]
  · rw [hread.srcTaken, hend.taken]
  · exact fun e he hsource => herr.trans (hend.srcErr e he (hut.symm.trans hsource))
  · obtain rfl := hfirst q h hq
    refine ⟨hread.skip, fun hok => ?_⟩
    have hm : p + m = p + frameSize h := hend.taken.trans (expectedTaken_of_ok hq (hresult.symm.trans hok))
    obtain rfl := Nat.add_left_cancel hm
    exact ⟨hread.bufLen, fun k hk => (hread.held k hk).trans (List.getElem?_drop ..)⟩

end Sys2Proof.Machine
end

section
/-! PROOFS (spec/43_frame_access.md). What the FD commands answer of the frame in FBUF. -/

namespace Sys2Proof.Machine

/-! ### The frame that an FD command reads (spec/43_frame_access.md R130) -/

section
variable {s : State} {h : Word}

theorem whenFrameValid_of_valid (hv : s.frameValid = true) (k : Outcome) : whenFrameValid s k = k := if_pos hv

/-- A command that begins with the frame's header works on the header that FBUF holds (spec/20_memory.md R35). -/
theorem whenFrameValid_withFrameHeader (hv : s.frameValid = true) (hh : s.HoldsHeader h) (k : Word → Outcome) :
    whenFrameValid s (withFrameHeader s k) = k h :=
  withHeader_of_selected (src := .frame) ⟨hv, hh⟩ k

/-- In the invariant the header that FBUF holds is the frame's, and header, CRC and side info lie below BUF_LEN. -/
theorem State.Inv.frame_of_holdsHeader (hs : s.Inv) (hv : s.frameValid = true) (hh : s.HoldsHeader h) :
    legal h = true ∧ s.bufLen.toNat = frameSize h ∧ headLength h ≤ s.bufLen.toNat := by
  obtain ⟨w, hw, hl, hsize, hlong⟩ := hs.frame hv
  cases hw.symm.trans (State.holdsHeader_iff.mp hh)
  exact ⟨hl, hsize, hlong.trans hsize.ge⟩

/-- A narrower word zero-extended as the response's data keeps its number. -/
theorem State.respond_setWidth {n : Nat} (hn : n ≤ 32) (d : BitVec n) :
    s.respond (d.setWidth 32) = s.okWith d.toNat := by
  rw [State.respond_eq_okWith, BitVec.toNat_setWidth_of_le hn]

theorem respondByte_of_some {i : Nat} {b : Byte} (hb : s.bufRead i = some b) :
    respondByte s i = .next (s.okWith b.toNat) := by
  rw [← State.respond_setWidth (by decide), respondByte, hb]

/-- The CRC word is big-endian (spec/20_memory.md R36). -/
theorem State.frameCrc_of_some {b4 b5 : Byte} (h4 : s.bufRead 4 = some b4) (h5 : s.bufRead 5 = some b5) :
    ∃ c, s.frameCrc = some c ∧ c.toNat = b4.toNat * 2 ^ 8 + b5.toNat :=
  ⟨(b4 ++ b5).cast rfl, by rw [State.frameCrc, h4, h5], by rw [BitVec.toNat_cast, toNat_concat]⟩

/-- The three side-info lengths (spec/41_frame_length.md R94). -/
theorem sideLen_cases {n : Nat} (hn : sideLen h = some n) : n = 9 ∨ n = 17 ∨ n = 32 := by
  unfold sideLen at hn
  split_ifs at hn <;> cases hn <;> decide

end

/-! ### FD.LEN (spec/43_frame_access.md R131) -/

/-- Settles O27: R31 item 1 holds BUF_LEN equal to the size of the frame's header. -/
theorem fdLenAnswersTheBufferLength : Obligations.FdLenAnswersTheBufferLength := by
  refine fun s arg => ⟨decodeWord_opcode .fdLen arg, fun hv => whenFrameValid_of_not hv _, fun hv => ?_,
    fun hs hv => ?_⟩
  · rw [exec, execFdLen, whenFrameValid_of_valid hv, State.respond_setWidth (by decide)]
  · obtain ⟨h, hh, hl, hsize, -⟩ := hs.frame hv
    have hsel : HeaderSelected .frame s h := ⟨hv, State.holdsHeader_iff.mpr hh⟩
    rw [exec, execFlSize, hsize]
    exact flCommand_of_legal hsel hl rfl

/-! ### FD.CRC (spec/43_frame_access.md R132) -/

section
variable {s : State} {h : Word}

theorem execFdCrc_of_absent (hv : s.frameValid = true) (hh : s.HoldsHeader h) (hc : crcPresent h = false) :
    execFdCrc s = .next (s.okWith 0) := by
  rw [execFdCrc, whenFrameValid_withFrameHeader hv hh, hc]; rfl

theorem execFdCrc_of_present (hv : s.frameValid = true) (hh : s.HoldsHeader h) (hc : crcPresent h = true)
    {c : BitVec 16} (hcrc : s.frameCrc = some c) : execFdCrc s = .next (s.okWith c.toNat) := by
  rw [execFdCrc, whenFrameValid_withFrameHeader hv hh, if_pos hc, hcrc, ← State.respond_setWidth (by decide)]

end

/-- Settles O28: a CRC that is present lies within header, CRC and side info, which the frame holds. -/
theorem fdCrcAnswersTheStoredWord : Obligations.FdCrcAnswersTheStoredWord := by
  refine ⟨decodeWord_opcode .fdCrc, fun s hv => whenFrameValid_of_not hv _, fun s h hh => ⟨?_, ?_, ?_⟩⟩
  · intro hv hp
    refine execFdCrc_of_absent hv hh (Bool.eq_false_of_not_eq_true fun hc => ?_)
    rw [crcPresent_iff, hp] at hc
    cases hc
  · intro hv hp b4 b5 h4 h5
    obtain ⟨c, hcrc, hn⟩ := State.frameCrc_of_some h4 h5
    exact hn ▸ execFdCrc_of_present hv hh ((crcPresent_iff h).mpr hp) hcrc
  · intro hs hv hp
    obtain ⟨-, -, hlong⟩ := hs.frame_of_holdsHeader hv hh
    have hcl : crcLen h = 2 := if_pos ((crcPresent_iff h).mpr hp)
    have hle := four_add_crcLen_le_headLength h
    obtain ⟨b4, h4⟩ := hs.exists_bufRead (i := 4) (by omega)
    obtain ⟨b5, h5⟩ := hs.exists_bufRead (i := 5) (by omega)
    exact ⟨b4, b5, h4, h5⟩

/-! ### FD.BYTE (spec/43_frame_access.md R133) -/

/-- Settles O29: the buffer is filled up to BUF_LEN, which R31 item 1 holds equal to the frame's size. -/
theorem fdByteAnswersTheByteOrRange : Obligations.FdByteAnswersTheByteOrRange := by
  refine ⟨decodeWord_opcode (.fdByte 0), fun s idx => ⟨fun hv => whenFrameValid_of_not hv _, ?_, ?_, ?_⟩⟩
  · intro hv hle
    rw [exec, execFdByte, whenFrameValid_of_valid hv, if_pos hle]; rfl
  · intro hv hlt b hb
    rw [exec, execFdByte, whenFrameValid_of_valid hv, if_neg hlt.not_ge, respondByte_of_some hb]
  · intro hs hv
    refine ⟨hs.exists_bufRead, fun h hh => ?_⟩
    obtain ⟨-, hsize, -⟩ := hs.frame_of_holdsHeader hv hh
    exact hsize

/-! ### FD.SIDE (spec/43_frame_access.md R134) -/

/-- FD.SIDE compares its index with the side-info length of the frame's header. -/
theorem execFdSide_of_holdsHeader {s : State} {h : Word} (hv : s.frameValid = true) (hh : s.HoldsHeader h) {sl : Nat}
    (hsl : sideLen h = some sl) (idx : Nat) :
    execFdSide idx s = if sl ≤ idx then .next (s.refuse .range) else respondByte s (4 + crcLen h + idx) := by
  rw [execFdSide, whenFrameValid_withFrameHeader hv hh, hsl]

/-- Settles O30: the side info lies within header, CRC and side info, which the frame holds. -/
theorem fdSideAnswersTheSideInfoByteOrRange : Obligations.FdSideAnswersTheSideInfoByteOrRange := by
  refine ⟨decodeWord_opcode (.fdSide 0), fun s idx hv => whenFrameValid_of_not hv _, fun s h idx hh => ⟨?_, ?_, ?_⟩⟩
  · intro sl hsl hv hle
    rw [exec, execFdSide_of_holdsHeader hv hh hsl, if_pos hle]; rfl
  · intro sl hsl hv hlt b hb
    rw [exec, execFdSide_of_holdsHeader hv hh hsl, if_neg hlt.not_ge, respondByte_of_some hb]
  · intro hs hv
    obtain ⟨hl, -, hlong⟩ := hs.frame_of_holdsHeader hv hh
    obtain ⟨sl, hsl⟩ := sideLen_of_legal hl
    rw [headLength_eq hsl] at hlong
    exact ⟨sl, hsl, sideLen_cases hsl, fun hlt => hs.exists_bufRead (by omega)⟩

end Sys2Proof.Machine
end

section
/-! PROOFS (spec/60_exceptions.md R151, R152). No reachable state stops the machine, every command is answered, and a
source is connected only while no decode runs. -/

namespace Sys2Proof.Machine

/-! ### The connect turn (spec/60_exceptions.md R152) -/

section
variable {s : State} {answers : List SrcAnswer}

theorem connectTurn_of_idle (hi : s.phase = .idle) :
    connectTurn answers s = .next { s with src := answers, srcTaken := 0 } :=
  if_neg (Bool.eq_false_iff.mp (s.busy_eq_false.mpr hi))

theorem connectTurn_of_busy (hb : s.phase ≠ .idle) : connectTurn answers s = .next s :=
  if_pos (s.busy_eq_true.mpr hb)

theorem step_connect {rest : List Turn} (hr : s.R31) (hs : s.sched = .connect answers :: rest) :
    step s = connectTurn answers (s.begun rest) :=
  (step_of_sched hs).trans (inReachable_eq hr _)

end

/-- Settles O44. -/
theorem connectReplacesTheSourceWhenIdle : Obligations.ConnectReplacesTheSourceWhenIdle := by
  intro s answers rest hr hs
  rw [step_connect hr hs]
  exact ⟨fun hi => connectTurn_of_idle (s := s.begun rest) hi, fun hb => connectTurn_of_busy (s := s.begun rest) hb⟩

/-! ### Every command and every step (spec/60_exceptions.md R151) -/

/-- Settles O31: a command has a next state, and every next state of a command holds a response. -/
theorem everyCommandGetsAResponse : Obligations.EveryCommandGetsAResponse := by
  intro s i hs
  obtain ⟨t, ht⟩ := exec_total hs i
  obtain ⟨r, hr, -⟩ := refusedCommandsChangeNothing i s t ht
  exact ⟨t, r, ht, hr⟩

/-- Settles O47: with the schedule empty a step only clears the outputs, and every turn from the invariant has a next
state (`takeTurn_total`). -/
theorem stepFromTheInvariantNeverStops : Obligations.StepFromTheInvariantNeverStops :=
  fun _ hs => step_total hs

end Sys2Proof.Machine
end

section
/-! PROOFS (spec/70_reset_and_hazards.md R153, R155). The reset input, and the end of every decode whose source answers
every fetch. -/

namespace Sys2Proof.Machine

/-- Settles O43. -/
theorem resetInputRestoresTheResetState : Obligations.ResetInputRestoresTheResetState :=
  fun _ _ _ hs => step_of_sched hs

/-! ### What a decode still has to do -/

/-- A bound of the engine steps a decode has left beside those for the bytes still to come: the search may pass over
the window byte by byte, and each phase is left once (spec/10_state.md R16). -/
def State.stepsLeft (s : State) : Nat :=
  match s.phase with
  | .sync => s.bufLen.toNat + 4
  | .crc => 3
  | .side => 2
  | .payload => 1
  | .idle => 0

section
variable {s t : State}

theorem State.stepsLeft_sync (hph : s.phase = .sync) : s.stepsLeft = s.bufLen.toNat + 4 := by
  rw [State.stepsLeft, hph]

theorem State.stepsLeft_of_ne_sync (hph : s.phase ≠ .sync) : s.stepsLeft = Phase.idle.rank - s.phase.rank := by
  unfold State.stepsLeft
  cases hp : s.phase with
  | sync => exact absurd hp hph
  | _ => rfl

theorem State.stepsLeft_pos (hb : s.phase ≠ .idle) : 0 < s.stepsLeft := by
  by_cases hph : s.phase = .sync
  · rw [State.stepsLeft_sync hph]; omega
  · rw [State.stepsLeft_of_ne_sync hph]
    exact Nat.sub_pos_of_lt (Phase.rank_lt_idle hb)

/-- The window holds at most four bytes (spec/10_state.md R31 item 4). -/
theorem State.Inv.stepsLeft_le (hs : s.Inv) : s.stepsLeft ≤ 8 := by
  obtain ⟨⟨-, -, -, hsync, -⟩, -⟩ := hs
  by_cases hph : s.phase = .sync
  · rw [State.stepsLeft_sync hph]
    exact Nat.add_le_add_right (hsync hph) 4
  · rw [State.stepsLeft_of_ne_sync hph]
    exact (Nat.sub_le _ _).trans (by decide)

/-- A byte makes a search's window one longer, and touches no other phase's bound. -/
theorem State.stepsLeft_answerFetch_byte_le (hlen : s.bufLen.toNat < 4095) (b : Byte) :
    (answerFetch (.byte b) s).stepsLeft ≤ s.stepsLeft + 1 := by
  have hphase : (answerFetch (.byte b) s).phase = s.phase := rfl
  by_cases hph : s.phase = .sync
  · have hlen' : (answerFetch (.byte b) s).bufLen.toNat = s.bufLen.toNat + 1 := State.append_bufLen_toNat hlen b
    rw [State.stepsLeft_sync (hphase.trans hph), State.stepsLeft_sync hph, hlen', Nat.add_right_comm]
  · rw [State.stepsLeft_of_ne_sync (hphase ▸ hph), State.stepsLeft_of_ne_sync hph, hphase]
    exact Nat.le_succ _

theorem discard_stepsLeft_lt (hph : s.phase = .sync) (h4 : 4 ≤ s.bufLen.toNat) (h : discard s = .next t) :
    t.stepsLeft < s.stepsLeft := by
  obtain ⟨hphase, -⟩ := discard_phase_done h
  rw [State.stepsLeft_sync (hphase.trans hph), State.stepsLeft_sync hph]
  refine Nat.add_lt_add_right (Nat.lt_of_lt_of_le ?_ h4) 4
  obtain ⟨b1, b2, b3, -, -, -, ⟨-, rfl⟩ | ⟨-, rfl⟩⟩ := discard_next h <;> simp

theorem discard_environment (h : discard s = .next t) : t.src = s.src ∧ t.sched = s.sched := by
  obtain ⟨b1, b2, b3, -, -, -, ⟨-, rfl⟩ | ⟨-, rfl⟩⟩ := discard_next h <;> simp

/-- `t` is `s` after an engine step that asks for no byte. -/
structure State.GoesOn (s t : State) : Prop where
  stepsLeft : t.stepsLeft < s.stepsLeft
  pending : t.pending = false
  src : t.src = s.src
  sched : t.sched = s.sched

/-- The engine's turn in a decode waits for a byte or leaves fewer steps (spec/42_synchronizer.md R113, R114). -/
theorem engineTurn_awaits_or_goesOn (hb : s.phase ≠ .idle) (h : engineTurn s = .next t) :
    t = { s with pending := true } ∨ s.GoesOn t := by
  rcases engineTurn_next h with ⟨hheld, rfl⟩ | ⟨hp, h⟩
  · rw [← hheld.resolve_right hb]
    exact .inl rfl
  have moves {p : Phase} (hlt : ({ s with phase := p } : State).stepsLeft < s.stepsLeft) :
      s.GoesOn { s with phase := p } := ⟨hlt, hp, rfl, rfl⟩
  have ends (k : DecodeResult) : s.GoesOn (s.finish k) := ⟨State.stepsLeft_pos hb, hp, rfl, rfl⟩
  rcases h with ⟨-, -, rfl⟩ | ⟨hph, -, w, -, -, rfl⟩ | ⟨hph, h4, w, -, -, h⟩ | ⟨-, -, rfl⟩ | ⟨hph, -, rfl⟩ |
    ⟨-, w, -, -, rfl⟩ | ⟨-, w, n, -, -, -, rfl⟩ | ⟨hph, w, n, -, -, -, rfl⟩ | ⟨-, w, -, -, -, rfl⟩ |
    ⟨-, w, -, -, -, rfl⟩ | ⟨-, w, -, -, -, rfl⟩
  -- SYNC: fetch, a legal header, discard
  · exact .inl rfl
  · refine .inr (moves ?_)
    rw [State.stepsLeft_sync hph]
    cases crcPresent w <;> simp [State.stepsLeft]
  · obtain ⟨hsrc, hsched⟩ := discard_environment h
    exact .inr ⟨discard_stepsLeft_lt hph h4 h, (discard_pending h).trans hp, hsrc, hsched⟩
  -- CRC: fetch, complete
  · exact .inl rfl
  · exact .inr (moves (by simp [State.stepsLeft, hph]))
  -- SIDE: a reserved version, fetch, complete
  · exact .inr (ends _)
  · exact .inl rfl
  · exact .inr (moves (by simp [State.stepsLeft, hph]))
  -- PAYLOAD: too short, fetch, complete
  · exact .inr (ends _)
  · exact .inl rfl
  · exact .inr (ends _)

/-! ### The rounds that suffice -/

/-- The decode is over, or its source gives bytes and then `last`, and `n` rounds suffice: each byte to come costs the
round that takes it and, in the search, one that passes over it. -/
def State.DueWithin (s : State) (last : SrcAnswer) (n : Nat) : Prop :=
  s.phase = .idle ∨ ∃ bs : List Byte, s.src = bs.map .byte ++ [last] ∧ 2 * bs.length + s.stepsLeft ≤ n

theorem State.DueWithin.idle {last : SrcAnswer} (h : s.DueWithin last 0) : s.phase = .idle := by
  obtain hi | ⟨bs, -, hle⟩ := h
  · exact hi
  · by_contra hb
    have := State.stepsLeft_pos hb
    omega

section
variable {last : SrcAnswer} {n : Nat}

theorem State.withRounds_eq_self (h : s.sched = engineRounds n) : s.withRounds n = s := by
  rw [State.withRounds, ← h]

/-- The source's answer to a fetch is the next byte or ends the decode (spec/42_synchronizer.md R115). -/
theorem sourceTurn_dueWithin (hlast : ∀ b, last ≠ .byte b) (hs : s.Inv) (hp : s.pending = true) {bs : List Byte}
    (hsrc : s.src = bs.map .byte ++ [last]) (hle : 2 * bs.length + s.stepsLeft ≤ n + 1) :
    ∃ t, sourceTurn s = .next t ∧ t.sched = s.sched ∧ t.DueWithin last n := by
  cases bs with
  | nil =>
    refine ⟨_, sourceTurn_of_pending hp hsrc, ?_⟩
    cases last with
    | byte b => exact absurd rfl (hlast b)
    | eof | err e => exact ⟨rfl, .inl rfl⟩
  | cons b bs =>
    refine ⟨_, sourceTurn_of_pending hp hsrc, rfl, .inr ⟨bs, rfl, ?_⟩⟩
    obtain ⟨⟨-, -, -, -, hmax, -⟩, -⟩ := hs
    refine (Nat.add_le_add_left (State.stepsLeft_answerFetch_byte_le (hmax.trans_lt (by decide)) b) _).trans ?_
    change 2 * bs.length + (s.stepsLeft + 1) ≤ n
    rw [List.length_cons] at hle
    omega

/-- A round leaves one round fewer. -/
theorem State.DueWithin.round (hlast : ∀ b, last ≠ .byte b) (hs : s.Inv) (hdue : s.DueWithin last (n + 1)) :
    ∃ t : State, runSteps (2 * (1 + n)) (s.withRounds (1 + n)) = runSteps (2 * n) (t.withRounds n) ∧ t.Inv ∧
      t.DueWithin last n := by
  by_cases hb : s.phase = .idle
  · exact ⟨s.clearOutputs, State.RunsTo.of_idle hs hb n, State.SameDecode.inv rfl hs, .inl hb⟩
  obtain ⟨bs, hsrc, hle⟩ := hdue.resolve_left hb
  have hbegun : (s.begun (.source :: engineRounds n)).Inv := (State.SameDecode.begun s _).inv hs
  obtain ⟨v, hv⟩ := engineTurn_total hbegun
  have hvinv : (v.begun (engineRounds n)).Inv := (State.SameDecode.begun v _).inv (engineTurn_inv hbegun hv)
  rcases engineTurn_awaits_or_goesOn (s := s.begun _) hb hv with rfl | hgo
  · obtain ⟨t, ht, hsched, hdue'⟩ := sourceTurn_dueWithin hlast hvinv rfl hsrc hle
    refine ⟨t, ?_, sourceTurn_inv hvinv ht, hdue'⟩
    rw [State.withRounds_eq_self (s := t) hsched]
    exact runSteps_round hs hv rfl ht
  · refine ⟨v.begun (engineRounds n), runSteps_round hs hv hgo.sched (sourceTurn_of_not_pending hgo.pending), hvinv,
      .inr ⟨bs, hgo.src.trans hsrc, ?_⟩⟩
    exact Nat.le_of_lt_succ ((Nat.add_lt_add_left hgo.stepsLeft _).trans_le hle)

/-- A decode that is due within `n` rounds is over after them. -/
theorem State.DueWithin.run (hlast : ∀ b, last ≠ .byte b) (hs : s.Inv) (hdue : s.DueWithin last n) :
    ∃ t, runSteps (2 * n) (s.withRounds n) = .next t ∧ t.phase = .idle := by
  induction n generalizing s with
  | zero => exact ⟨s.withRounds 0, rfl, hdue.idle⟩
  | succ n ih =>
    obtain ⟨t, hrun, ht, hdue'⟩ := State.DueWithin.round hlast hs hdue
    rw [Nat.add_comm n, hrun]
    exact ih ht hdue'

end

end

/-- Settles O58: each round leaves one round fewer of `2 * bs.length + s.stepsLeft`, which at first is at most eight more
than twice the bytes to come. -/
theorem everyAnsweredDecodeEnds : Obligations.EveryAnsweredDecodeEnds := by
  intro s bs last hs hlast
  have ht : ({ s with src := bs.map .byte ++ [last] } : State).Inv := State.SameDecode.inv (s := s) rfl hs
  have hsteps := ht.stepsLeft_le
  exact State.DueWithin.run hlast ht (.inr ⟨bs, rfl, by omega⟩)

end Sys2Proof.Machine
end
